-- ==== Sys2Proof/Word.lean ====
section
/-!
DEFINITION. The words of CRCFRAME (00_scope.md R6): every value is an unsigned bit vector whose
width a rule states. One abbreviation for each width the spec uses.
-/
namespace Sys2Proof

/-- One byte: a frame byte, a type code, BUF[i]. -/
abbrev Byte := BitVec 8

/-- The LEN field, TX_LEN and RES_LEN (R3). -/
abbrev Half := BitVec 16

/-- RX_LEN and FRM_LEN, "17-bit counts" (R4); also a buffer index. -/
abbrev Count := BitVec 17

/-- A bus byte address (R4, R50). -/
abbrev BusAddr := BitVec 18

/-- A bus operation descriptor (R70). -/
abbrev Descriptor := BitVec 21

/-- A register, a data word, a checksum (R4, R23). -/
abbrev Word := BitVec 32

end Sys2Proof
end

