-- ==== Sys2Proof/Config.lean ====
section
/-!
DEFINITION. What is fixed for the machine and is no state (10_state.md R49): the dimensions, the
register map, the type codes, the CRC-32 parameters, the two parameters the spec leaves without a
value, and the two free values: a buffer byte that was never written, and the rdata of a write.
-/
namespace Sys2Proof

/-- HDR_SIZE (R3). -/
abbrev Config.hdrSize : Nat := 11

/-- PAYLOAD_MAX (R3). -/
abbrev Config.payloadMax : Nat := 65535

/-- FRAME_CAP = HDR_SIZE + PAYLOAD_MAX (R4). -/
abbrev Config.frameCap : Nat := 65546

/-- The first bus address of the buffer window (R51). -/
abbrev Config.bufBase : Nat := 0x10000

/-- The last bus address of the buffer window (R51, 90_conflicts.md C7). -/
abbrev Config.bufLast : Nat := 0x20009

/-- The sixteen registers, in the order of the register map (R23). -/
inductive Reg where
  | ctrl | status | cmd | txType | txSeq | txLen | rxLen | frmLen
  | resType | resSeq | resLen | resHcsum | resCcsum | crcAcc | crcData | crcOut
  deriving DecidableEq, Repr

/-- The byte offset of a register from bus address 0 (R23). -/
def Config.offset : Reg → BusAddr
  | .ctrl => 0x00#18
  | .status => 0x04#18
  | .cmd => 0x08#18
  | .txType => 0x0C#18
  | .txSeq => 0x10#18
  | .txLen => 0x14#18
  | .rxLen => 0x18#18
  | .frmLen => 0x1C#18
  | .resType => 0x20#18
  | .resSeq => 0x24#18
  | .resLen => 0x28#18
  | .resHcsum => 0x2C#18
  | .resCcsum => 0x30#18
  | .crcAcc => 0x34#18
  | .crcData => 0x38#18
  | .crcOut => 0x3C#18

/-- The six message type codes (R74). -/
inductive MsgType where
  | get | data | ack | nak | err | fin
  deriving DecidableEq, Repr

/-- The code of a message type on the wire (R74). -/
def Config.typeCode : MsgType → Byte
  | .get => 0x01#8
  | .data => 0x02#8
  | .ack => 0x03#8
  | .nak => 0x04#8
  | .err => 0x05#8
  | .fin => 0x06#8

/-- The bit-reversed CRC-32 polynomial (R100). -/
abbrev Config.crcPoly : Word := 0xEDB88320#32

/-- The initial CRC register value (R100). -/
abbrev Config.crcInit : Word := 0xFFFFFFFF#32

/-- CMD_LATENCY, "a named parameter" that "is OPEN" (R5): it has no value, and no definition of this
model reads it (log entry 2). -/
opaque Config.cmdLatency : Nat

/-- BASE, where the platform puts the block (R58): it has no value here. Every address of the spec
and of this model is relative to it. -/
opaque Config.base : Nat

/-- FREE VALUE. What the `k`th draw for a buffer byte that was never written gives (R231, log
entry 3): "an unconstrained value, drawn afresh on each read". -/
opaque Config.freeByte : Nat → Byte

/-- FREE VALUE. The rdata of the response to an OK write, where the `k`th free value is drawn (log entry
5): "rdata is 32 bits" (R50), and no rule says which for a write. -/
opaque Config.freeRdata : Nat → Word

end Sys2Proof
end

