-- ==== Sys2Proof/Syntax.lean ====
section
/-!
DEFINITION. The operations of CRCFRAME: one constructor of `Instr` for each row of
spec/opcode_table.json, and the bus transaction that BUS_ERR carries.
-/
namespace Sys2Proof

/-- The SZ field of a descriptor (R70). -/
inductive Size where
  | one
  | two
  | four
  /-- SZ = 3, which "cannot be presented by the port" (R70, log entry 6). -/
  | notPresentable
  deriving DecidableEq, Repr

/-- A host transaction request (R50). Only a write has a data word: "The data word is wdata for a
write and is absent for a read" (R70). -/
inductive Request where
  | read (size : Size) (addr : BusAddr)
  | write (size : Size) (addr : BusAddr) (wdata : Word)
  deriving DecidableEq, Repr

/-- The two framer commands (R47, R72). -/
inductive Command where
  | encode
  | decode
  deriving DecidableEq, Repr

/-- The operations. A register write carries all of wdata; its meaning takes the bits that R77 names. -/
inductive Instr where
  | rdCtrl | wrCtrl (wdata : Word)
  | rdStatus | wrStatus (wdata : Word)
  | rdCmd | wrCmd (wdata : Word)
  | rdTxType | wrTxType (wdata : Word)
  | rdTxSeq | wrTxSeq (wdata : Word)
  | rdTxLen | wrTxLen (wdata : Word)
  | rdRxLen | wrRxLen (wdata : Word)
  | rdFrmLen | wrFrmLen (wdata : Word)
  | rdResType | wrResType (wdata : Word)
  | rdResSeq | wrResSeq (wdata : Word)
  | rdResLen | wrResLen (wdata : Word)
  | rdResHcsum | wrResHcsum (wdata : Word)
  | rdResCcsum | wrResCcsum (wdata : Word)
  | rdCrcAcc | wrCrcAcc (wdata : Word)
  | rdCrcData | wrCrcData (wdata : Word)
  | rdCrcOut | wrCrcOut (wdata : Word)
  /-- `i` is the buffer index addr - 0x10000 (R174). -/
  | rdBuf (i : Count)
  /-- `i` is the buffer index addr - 0x10000 (R175). -/
  | wrBuf (i : Count) (wdata : Word)
  /-- An access that the bus decode does not admit (R176). -/
  | busErr (req : Request)
  /-- The engine's completion step for ENCODE (R121, R122). -/
  | cmdEncode
  /-- The engine's completion step for DECODE (R121, R123). -/
  | cmdDecode
  /-- A write of the reserved command word `word` (R72, R205). -/
  | cmdReserved (word : Word)
  deriving DecidableEq, Repr

end Sys2Proof
end

