-- ==== Sys2Proof/Machine/State.lean ====
section
/-!
DEFINITION. The state of the machine: the block's state record, exactly that of 10_state.md R49,
and beside it the model's own fields (the port's last response, the draw counter, the pending
inputs). Plain data throughout.
-/
namespace Sys2Proof.Machine

/-- The frame buffer BUF (R46): (index, byte) pairs for the bytes written since power-up, indices
strictly rising. An index that is not listed was never written (R231). -/
abbrev Memory := List Host.Cell

/-- ENG, the engine state (R47). -/
inductive Engine where
  | idle
  | busy (c : Command)
  deriving DecidableEq, Repr

/-- The err part of a response (R50). -/
inductive BusStatus where
  | ok
  | error
  deriving DecidableEq, Repr

/-- The answer to a request (R50). -/
structure Response where
  rdata : Word
  err : BusStatus
  deriving DecidableEq, Repr

/-- One turn of one of the three agents (R20). -/
inductive Event where
  /-- The host presents a transaction. -/
  | host (req : Request)
  /-- The engine takes its completion step, if it is enabled (log entry 7). -/
  | engine
  /-- rst is asserted. -/
  | reset
  deriving DecidableEq, Repr

/-- The state. -/
structure State where
  /-- CTRL.IE (R24). -/
  ie : Bool
  /-- STATUS.DONE (R26). -/
  done : Bool
  /-- STATUS.OVR (R27). -/
  ovr : Bool
  /-- STATUS.ERR (R28). -/
  err : BitVec 4
  /-- STATUS.CRC_OK (R29). -/
  crcOk : Bool
  /-- STATUS.TYPE_KNOWN (R30). -/
  typeKnown : Bool
  /-- TX_TYPE (R33). -/
  txType : Byte
  /-- TX_SEQ (R34). -/
  txSeq : Word
  /-- TX_LEN (R35). -/
  txLen : Half
  /-- RX_LEN (R36). -/
  rxLen : Count
  /-- FRM_LEN (R37). -/
  frmLen : Count
  /-- RES_TYPE (R38). -/
  resType : Byte
  /-- RES_SEQ (R39). -/
  resSeq : Word
  /-- RES_LEN (R40). -/
  resLen : Half
  /-- RES_HCSUM (R41). -/
  resHcsum : Word
  /-- RES_CCSUM (R42). -/
  resCcsum : Word
  /-- CRC_ACC (R43). -/
  crcAcc : Word
  /-- BUF (R46). -/
  buf : Memory
  /-- ENG (R47). -/
  eng : Engine
  /-- MODEL'S OWN: the response to the last host transaction, none before the first (log entry 4). -/
  resp : Option Response
  /-- MODEL'S OWN: how many free values have been drawn (log entries 3 and 5). -/
  draws : Nat
  /-- MODEL'S OWN: the agents' turns to come, the next one first (log entry 1). -/
  events : List Event
  deriving DecidableEq, Repr

/-- Why the machine would stop with a fault. It has NO constructor: every transaction and every
completion step of the spec has a next state (R52: "every (dir, size, addr) has exactly one
outcome"), and BusError is a response, not a stop (R201). -/
inductive Fault where
  deriving DecidableEq, Repr

/-- Why an operation has no meaning. -/
inductive Refusal where
  /-- Raised only by an arm of `exec` whose operation has no meaning yet (there is none). Safe: the
  machine stops where the hardware goes on. -/
  | notModelled (mnemonic : String)
  deriving DecidableEq, Repr

/-- The machine right after power-up and reset: the reset column of R23, ENG idle, no byte of BUF
written (R230, R231). The last three fields are the model's own (log entries 1, 3, 4). -/
def State.reset : State where
  ie := false
  done := false
  ovr := false
  err := 0#4
  crcOk := false
  typeKnown := false
  txType := 0#8
  txSeq := 0#32
  txLen := 0#16
  rxLen := 0#17
  frmLen := 0#17
  resType := 0#8
  resSeq := 0#32
  resLen := 0#16
  resHcsum := 0#32
  resCcsum := 0#32
  crcAcc := 0xFFFFFFFF#32
  buf := []
  eng := .idle
  resp := none
  draws := 0
  events := []

/-- What an operation answers. -/
abbrev Result := Host.Outcome State Fault Refusal

end Sys2Proof.Machine
end

