-- ==== Sys2Proof/Machine/Crc.lean ====
section
/-!
DEFINITION. The CRC-32 function (40_crc_generator.md R100 to R102).
-/
namespace Sys2Proof.Machine

/-- One turn of the loop of R101: shift right, and add the polynomial if bit 0 was 1. -/
def crcBit (c : Word) : Word :=
  if c.getLsbD 0 then (c >>> 1) ^^^ Config.crcPoly else c >>> 1

/-- `n` turns of the loop of R101. -/
def crcBits : Nat → Word → Word
  | 0, c => c
  | n + 1, c => crcBits n (crcBit c)

/-- `crc32_step(c, b)`: the CRC register advanced by one byte (R101). -/
def crcStep (c : Word) (b : Byte) : Word := crcBits 8 (c ^^^ b.setWidth 32)

/-- The CRC register advanced by a byte sequence, its first byte first (R102). -/
def crcFold (c : Word) (bytes : List Byte) : Word := bytes.foldl crcStep c

/-- `crc32(s)` (R102): initial value 0xFFFFFFFF, final complement. -/
def crc32 (bytes : List Byte) : Word := ~~~(crcFold Config.crcInit bytes)

end Sys2Proof.Machine
end

