-- ==== Sys2Proof/Machine/Frame.lean ====
section
/-!
DEFINITION. The frame on the wire (30_encoding.md R73 to R76): byte order, the header, the type
codes, and the two pure functions of the source's codec that ENCODE and DECODE are the hardware
form of (00_scope.md R2, 41_codec.md). The machine's commands do not call those two functions;
statements compare the machine with them.
-/
namespace Sys2Proof.Machine

/-! ## Byte order (R7) -/

/-- `BE16(b0, b1)` (R7). -/
def be16 (b0 b1 : Byte) : Half := (b0.setWidth 16) <<< 8 ||| b1.setWidth 16

/-- `BE32(b0, b1, b2, b3)`: b0 in bits 31:24 (R7). -/
def be32 (b0 b1 b2 b3 : Byte) : Word := b0 ++ b1 ++ b2 ++ b3

/-- `bytesBE16(v)` (R7). -/
def bytesBE16 (v : Half) : List Byte := [v.extractLsb' 8 8, v.extractLsb' 0 8]

/-- `bytesBE32(v)` (R7). -/
def bytesBE32 (v : Word) : List Byte :=
  [v.extractLsb' 24 8, v.extractLsb' 16 8, v.extractLsb' 8 8, v.extractLsb' 0 8]

/-! ## The header -/

/-- The four fields of a header (R73, R75). -/
structure Header where
  type : Byte
  seq : Word
  len : Half
  csum : Word
  deriving DecidableEq, Repr

/-- The 11 bytes of a header (R76). -/
def headerBytes (h : Header) : List Byte :=
  [h.type] ++ bytesBE32 h.seq ++ bytesBE16 h.len ++ bytesBE32 h.csum

/-- The type field of the first 11 frame bytes f (R75). -/
def fieldType (f : Nat → Byte) : Byte := f 0

/-- The seq field (R75). -/
def fieldSeq (f : Nat → Byte) : Word := be32 (f 1) (f 2) (f 3) (f 4)

/-- The len field (R75). -/
def fieldLen (f : Nat → Byte) : Half := be16 (f 5) (f 6)

/-- The csum field (R75). -/
def fieldCsum (f : Nat → Byte) : Word := be32 (f 7) (f 8) (f 9) (f 10)

/-- A type byte is known when 0x01 <= t <= 0x06 (R74). -/
def typeIsKnown (t : Byte) : Bool := decide (0x01 ≤ t.toNat) && decide (t.toNat ≤ 0x06)

/-! ## The source's codec, as functions on byte sequences -/

/-- `encode(type, seq, payload) -> bytes` for a payload of at most 65535 bytes (R2, R3). -/
def codecEncode (type : Byte) (seq : Word) (payload : List Byte) : List Byte :=
  headerBytes ⟨type, seq, BitVec.ofNat 16 payload.length, crc32 payload⟩ ++ payload

/-- The two failures of the source's `decode` (R202). -/
inductive CodecError where
  | tooShort
  | truncatedPayload
  deriving DecidableEq, Repr

/-- `decode(bytes) -> (Header, payload) | DecodeError` (R2; 41_codec.md's quotation of the source). -/
def codecDecode (bytes : List Byte) : Except CodecError (Header × List Byte) :=
  if bytes.length < Config.hdrSize then .error .tooShort
  else
    let f : Nat → Byte := fun i => bytes.getD i 0#8
    let n := (fieldLen f).toNat
    if n > bytes.length - Config.hdrSize then .error .truncatedPayload
    else .ok (⟨fieldType f, fieldSeq f, fieldLen f, fieldCsum f⟩, (bytes.drop Config.hdrSize).take n)

end Sys2Proof.Machine
end

