-- ==== Sys2Proof/Machine/Ops.lean ====
section
/-!
DEFINITION. The shared operations: reading and writing BUF, drawing a free byte, answering a
transaction, the two kinds of event of 60_exceptions.md (a bus error, a command error), the dropped
write, the command handshake, and reset.
-/
namespace Sys2Proof.Machine

/-! ## BUF as data -/

/-- The byte of BUF at an index, none when it was never written (R46, R231). -/
def Memory.read (m : Memory) (i : Nat) : Option Byte :=
  match m with
  | [] => none
  | (j, b) :: rest => if i = j then some b else Memory.read rest i

/-- BUF with one byte written, the list kept strictly rising. -/
def Memory.write (m : Memory) (i : Nat) (b : Byte) : Memory :=
  match m with
  | [] => [(i, b)]
  | (j, c) :: rest =>
    if i < j then (i, b) :: (j, c) :: rest
    else if i = j then (i, b) :: rest
    else (j, c) :: Memory.write rest i b

/-- BUF with consecutive bytes written from an index on. -/
def Memory.writeBytes (m : Memory) (start : Nat) (bytes : List Byte) : Memory :=
  match bytes with
  | [] => m
  | b :: rest => Memory.writeBytes (Memory.write m start b) (start + 1) rest

/-- Every index of the list is above `lo`, and the list is strictly rising. -/
def Memory.risingFrom (lo : Nat) (m : Memory) : Bool :=
  match m with
  | [] => true
  | (i, _) :: rest => decide (lo ≤ i) && Memory.risingFrom (i + 1) rest

/-- The canonical form of BUF: indices strictly rising and below FRAME_CAP (R46). An unlisted byte
has no value of its own, so no entry can repeat one. -/
def Memory.wf (m : Memory) : Bool :=
  Memory.risingFrom 0 m && m.all (fun cell => decide (cell.1 < Config.frameCap))

/-! ## Reading BUF as an agent does -/

/-- One byte of BUF as a read sees it: the byte written last, or a free value, "drawn afresh on each
read" (R231). The second part counts the draws. -/
def drawByte (m : Memory) (i draws : Nat) : Byte × Nat :=
  match Memory.read m i with
  | some b => (b, draws)
  | none => (Config.freeByte draws, draws + 1)

/-- `n` consecutive bytes of BUF from `start` on, each read once, in ascending order. -/
def drawBytes (m : Memory) (start n draws : Nat) : List Byte × Nat :=
  match n with
  | 0 => ([], draws)
  | k + 1 =>
    let (b, d) := drawByte m start draws
    let (bs, d') := drawBytes m (start + 1) k d
    (b :: bs, d')

/-! ## Answering a transaction (R50) -/

/-- A read is answered OK with its data. -/
def answerRead (rdata : Word) (s : State) : State :=
  { s with resp := some ⟨rdata, .ok⟩ }

/-- A write is answered OK; the 32 bits of its rdata are a free value (R50, log entry 5). -/
def answerWrite (s : State) : State :=
  { s with resp := some ⟨Config.freeRdata s.draws, .ok⟩, draws := s.draws + 1 }

/-- `raise BusError(addr)` (R201, 92_eei_decisions.md D32): the response is ERROR with rdata = 0, to a
read and to a write alike, and nothing of the block's state changes. -/
def raiseBusError (s : State) : State :=
  { s with resp := some ⟨0x00000000#32, .error⟩ }

/-! ## Argument state (R240) -/

/-- ENG != IDLE. -/
def State.busy (s : State) : Bool :=
  match s.eng with
  | .idle => false
  | .busy _ => true

/-- A dropped write: OVR is set and nothing else changes (R240). -/
def dropWrite (s : State) : State := { s with ovr := true }

/-- A write to argument state: dropped while the engine is busy, else the update; the response is OK
either way (R240). -/
def writeArgument (update : State → State) (s : State) : State :=
  answerWrite (if s.busy then dropWrite s else update s)

/-! ## The command handshake -/

/-- A command is accepted: DONE and ERR are cleared and the engine is busy (R120). -/
def acceptCommand (c : Command) (s : State) : State :=
  { s with done := false, err := 0#4, eng := .busy c }

/-- ERR codes (R202). -/
abbrev errNone : BitVec 4 := 0#4
abbrev errTooShort : BitVec 4 := 1#4
abbrev errTruncated : BitVec 4 := 2#4
abbrev errBadCmd : BitVec 4 := 3#4

/-- `cmd_error(code)` (R202): the command ends with its code and DONE, without a commit. It is also
how a command that succeeds ends, with code 0, after its commit (R121). -/
def endCommand (code : BitVec 4) (s : State) : State :=
  { s with err := code, done := true }

/-- The end of the completion step: ERR, DONE and ENG <- IDLE (R121). -/
def finishCommand (code : BitVec 4) (s : State) : State :=
  { endCommand code s with eng := .idle }

/-- The commit of the result registers and flags by ENCODE and DECODE (R122, R123): `h` is the
frame's header, `k` the CRC-32 of its payload. -/
def commitResults (h : Header) (k : Word) (s : State) : State :=
  { s with
    frmLen := BitVec.ofNat 17 (Config.hdrSize + h.len.toNat)
    resType := h.type
    resSeq := h.seq
    resLen := h.len
    resHcsum := h.csum
    resCcsum := k
    crcOk := h.csum == k
    typeKnown := typeIsKnown h.type }

/-! ## Reset (R230) -/

/-- The reset transition: every register and field to its reset value, ENG to IDLE, BUF unchanged
(R230, R231). The model's own fields are unchanged. -/
def resetBlock (s : State) : State :=
  { State.reset with buf := s.buf, resp := s.resp, draws := s.draws, events := s.events }

end Sys2Proof.Machine
end

