-- ==== Sys2Proof/Machine/Operands.lean ====
section
/-!
DEFINITION. Operands: what a register write takes from wdata (30_encoding.md R77) and what a
register or buffer read returns. The value of STATUS is in Flags.lean.
-/
namespace Sys2Proof.Machine

/-- `zext_32` (R6). -/
def zext32 {w : Nat} (v : BitVec w) : Word := v.setWidth 32

/-- CTRL takes wdata[0] (R77). -/
def ieOf (wdata : Word) : Bool := wdata.getLsbD 0

/-- STATUS uses wdata[1] as the clear mask of DONE (R77). -/
def clearsDone (wdata : Word) : Bool := wdata.getLsbD 1

/-- STATUS uses wdata[2] as the clear mask of OVR (R77). -/
def clearsOvr (wdata : Word) : Bool := wdata.getLsbD 2

/-- TX_TYPE, CRC_DATA and a buffer write take wdata[7:0] (R77). -/
def lowByte (wdata : Word) : Byte := wdata.extractLsb' 0 8

/-- TX_LEN takes wdata[15:0] (R77). -/
def lowHalf (wdata : Word) : Half := wdata.extractLsb' 0 16

/-- RX_LEN takes min(wdata, 65546), the clamp on the whole 32-bit value (R77, R161). -/
def clampedCount (wdata : Word) : Count := BitVec.ofNat 17 (min wdata.toNat Config.frameCap)

/-- CTRL as a read returns it: IE in bit 0, the reserved bits 0 (R24, R150). -/
def ctrlWord (s : State) : Word := zext32 (BitVec.ofBool s.ie)

/-- CRC_OUT: ~CRC_ACC (R45, R104). -/
def crcOutWord (s : State) : Word := ~~~s.crcAcc

/-- CMD and CRC_DATA as a read returns them (R32, R44). -/
def writeOnlyWord : Word := 0x00000000#32

end Sys2Proof.Machine
end

