-- ==== Sys2Proof/Machine/Flags.lean ====
section
/-!
DEFINITION. The STATUS register as a whole (10_state.md R25 to R31), its write-1-to-clear bits, the
interrupt output (R48), and the value of every register as a read returns it (R23).
-/
namespace Sys2Proof.Machine

/-- STATUS as a read returns it: TYPE_KNOWN [9], CRC_OK [8], ERR [7:4], 0 [3], OVR [2], DONE [1],
BUSY [0], and 0 above (R152). -/
def statusWord (s : State) : Word :=
  zext32 (BitVec.ofBool s.typeKnown ++ BitVec.ofBool s.crcOk ++ s.err ++ 0#1
    ++ BitVec.ofBool s.ovr ++ BitVec.ofBool s.done ++ BitVec.ofBool s.busy)

/-- A host write of STATUS: write 1 to clear on DONE and OVR, nothing else (R153). It is also how
the host returns from an event (R210). -/
def clearStatus (wdata : Word) (s : State) : State :=
  { s with done := s.done && !clearsDone wdata, ovr := s.ovr && !clearsOvr wdata }

/-- irq = STATUS.DONE & CTRL.IE (R48, R208). -/
def State.irq (s : State) : Bool := s.done && s.ie

/-- The value of each register as a read returns it, zero-extended to 32 bits (R23, R77). -/
def readValue (r : Reg) (s : State) : Word :=
  match r with
  | .ctrl => ctrlWord s
  | .status => statusWord s
  | .cmd => writeOnlyWord
  | .txType => zext32 s.txType
  | .txSeq => zext32 s.txSeq
  | .txLen => zext32 s.txLen
  | .rxLen => zext32 s.rxLen
  | .frmLen => zext32 s.frmLen
  | .resType => zext32 s.resType
  | .resSeq => zext32 s.resSeq
  | .resLen => zext32 s.resLen
  | .resHcsum => zext32 s.resHcsum
  | .resCcsum => zext32 s.resCcsum
  | .crcAcc => zext32 s.crcAcc
  | .crcData => writeOnlyWord
  | .crcOut => crcOutWord s

end Sys2Proof.Machine
end

