-- ==== Sys2Proof/Machine/BufAccess.lean ====
section
/-!
DEFINITION. Frame buffer access and the access the bus does not admit (42_register_access.md R174
to R176).
-/
namespace Sys2Proof.Machine

/-- RD_BUF (R174): one byte, allowed while busy. An index outside BUF is outside the buffer window,
so it is a bus error (R52); no decoded operation has one. -/
def execRdBuf (i : Count) (s : State) : Result :=
  if i.toNat < Config.frameCap then
    let (b, d) := drawByte s.buf i.toNat s.draws
    .next (answerRead (zext32 b) { s with draws := d })
  else .next (raiseBusError s)

/-- WR_BUF (R175): argument state. An index outside BUF is a bus error, as for RD_BUF. -/
def execWrBuf (i : Count) (wdata : Word) (s : State) : Result :=
  if i.toNat < Config.frameCap then
    .next (writeArgument (fun t => { t with buf := Memory.write t.buf i.toNat (lowByte wdata) }) s)
  else .next (raiseBusError s)

/-- BUS_ERR (R176): it never depends on ENG and never sets OVR. -/
def execBusErr (_req : Request) (s : State) : Result := .next (raiseBusError s)

end Sys2Proof.Machine
end

