-- ==== Sys2Proof/Machine/CrcUnit.lean ====
section
/-!
DEFINITION. The CRC unit (40_crc_generator.md R104 to R110): accepted whatever ENG is, touching
CRC_ACC alone.
-/
namespace Sys2Proof.Machine

/-- RD_CRC_OUT (R104). -/
def execRdCrcOut (s : State) : Result := .next (answerRead (readValue .crcOut s) s)

/-- WR_CRC_OUT (R105): read-only, the write is ignored. -/
def execWrCrcOut (_wdata : Word) (s : State) : Result := .next (answerWrite s)

/-- WR_CRC_DATA (R106): feed one byte. -/
def execWrCrcData (wdata : Word) (s : State) : Result :=
  .next (answerWrite { s with crcAcc := crcStep s.crcAcc (lowByte wdata) })

/-- RD_CRC_DATA (R107): write-only, reads 0. -/
def execRdCrcData (s : State) : Result := .next (answerRead (readValue .crcData s) s)

/-- RD_CRC_ACC (R108). -/
def execRdCrcAcc (s : State) : Result := .next (answerRead (readValue .crcAcc s) s)

/-- WR_CRC_ACC (R109). -/
def execWrCrcAcc (wdata : Word) (s : State) : Result :=
  .next (answerWrite { s with crcAcc := wdata })

end Sys2Proof.Machine
end

