-- ==== Sys2Proof/WellFormed.lean ====
section
/-!
DEFINITION. Which terms of `Instr` stand for an operation of the block: a buffer index inside BUF
(R46), a BUS_ERR transaction that the bus decode does not admit (R52), a command word that is
reserved (R72).
-/
namespace Sys2Proof

/-- The register window's accesses: an aligned address 0x00000 to 0x0003F (R52 case 1, its address part). -/
def inRegWindow (a : BusAddr) : Bool :=
  decide (a.toNat ≤ 0x0003F) && a.toNat % 4 == 0

/-- The buffer window (R52 case 2, its address part). -/
def inBufWindow (a : BusAddr) : Bool :=
  decide (Config.bufBase ≤ a.toNat) && decide (a.toNat ≤ Config.bufLast)

/-- Address and size that R52 admits (cases 1 and 2). -/
def admits (size : Size) (a : BusAddr) : Bool :=
  match size with
  | .four => inRegWindow a
  | .one => inBufWindow a
  | .two => false
  | .notPresentable => false

/-- A transaction that R52 admits. -/
def Request.admitted : Request → Bool
  | .read size a => admits size a
  | .write size a _ => admits size a

/-- A command word that R72 defines. -/
def definedCommandWord (w : Word) : Bool :=
  w == 0x00000001#32 || w == 0x00000002#32

/-- The checks on an operation's operands, constructor by constructor. -/
def Instr.wellFormed : Instr → Bool
  | .rdCtrl | .rdStatus | .rdCmd | .rdTxType | .rdTxSeq | .rdTxLen | .rdRxLen | .rdFrmLen => true
  | .rdResType | .rdResSeq | .rdResLen | .rdResHcsum | .rdResCcsum => true
  | .rdCrcAcc | .rdCrcData | .rdCrcOut => true
  | .wrCtrl _ | .wrStatus _ | .wrCmd _ | .wrTxType _ | .wrTxSeq _ | .wrTxLen _ => true
  | .wrRxLen _ | .wrFrmLen _ | .wrResType _ | .wrResSeq _ | .wrResLen _ => true
  | .wrResHcsum _ | .wrResCcsum _ | .wrCrcAcc _ | .wrCrcData _ | .wrCrcOut _ => true
  | .rdBuf i => decide (i.toNat < Config.frameCap)
  | .wrBuf i _ => decide (i.toNat < Config.frameCap)
  | .busErr req => !req.admitted
  | .cmdEncode | .cmdDecode => true
  | .cmdReserved w => !definedCommandWord w

end Sys2Proof
end

