-- ==== Sys2Proof/Decode.lean ====
section
/-!
DEFINITION. Decoding and encoding of operations (30_encoding.md R70 to R72, 20_memory.md R52).
`decodeRequest` is the bus decode and `decodeCommand` the command map; `decode` reads them from a
byte image, total on any bytes and rejecting by name; `encode` writes the byte image. The byte
image (least significant byte first, log entry 8) is the model's: the spec numbers bits only.
-/
namespace Sys2Proof

/-- Why a byte image is no operation. -/
inductive DecodeError where
  /-- Neither a descriptor, nor a descriptor with a data word, nor a command word. -/
  | badLength
  /-- A descriptor has 21 bits (R70); a bit above bit 20 is set. -/
  | descriptorTooWide
  /-- A write descriptor without its data word (R70). -/
  | dataWordMissing
  /-- A read descriptor with a data word, which "is absent for a read" (R70). -/
  | dataWordOnRead
  deriving DecidableEq, Repr

/-! ## The bus decode -/

/-- The register at a bus address (R23). -/
def regAt (a : BusAddr) : Option Reg :=
  match a with
  | 0x00#18 => some .ctrl
  | 0x04#18 => some .status
  | 0x08#18 => some .cmd
  | 0x0C#18 => some .txType
  | 0x10#18 => some .txSeq
  | 0x14#18 => some .txLen
  | 0x18#18 => some .rxLen
  | 0x1C#18 => some .frmLen
  | 0x20#18 => some .resType
  | 0x24#18 => some .resSeq
  | 0x28#18 => some .resLen
  | 0x2C#18 => some .resHcsum
  | 0x30#18 => some .resCcsum
  | 0x34#18 => some .crcAcc
  | 0x38#18 => some .crcData
  | 0x3C#18 => some .crcOut
  | _ => none

/-- The buffer index addr - 0x10000 of a bus address in the buffer window (R51, R174). -/
def bufIndex (a : BusAddr) : Option Count :=
  if 0x10000 ≤ a.toNat ∧ a.toNat ≤ 0x20009 then some (BitVec.ofNat 17 (a.toNat - 0x10000)) else none

/-- The operation that reads a register (R70's operation list). -/
def readOp : Reg → Instr
  | .ctrl => .rdCtrl
  | .status => .rdStatus
  | .cmd => .rdCmd
  | .txType => .rdTxType
  | .txSeq => .rdTxSeq
  | .txLen => .rdTxLen
  | .rxLen => .rdRxLen
  | .frmLen => .rdFrmLen
  | .resType => .rdResType
  | .resSeq => .rdResSeq
  | .resLen => .rdResLen
  | .resHcsum => .rdResHcsum
  | .resCcsum => .rdResCcsum
  | .crcAcc => .rdCrcAcc
  | .crcData => .rdCrcData
  | .crcOut => .rdCrcOut

/-- The operation that writes a register (R70's operation list). -/
def writeOp : Reg → Word → Instr
  | .ctrl => .wrCtrl
  | .status => .wrStatus
  | .cmd => .wrCmd
  | .txType => .wrTxType
  | .txSeq => .wrTxSeq
  | .txLen => .wrTxLen
  | .rxLen => .wrRxLen
  | .frmLen => .wrFrmLen
  | .resType => .wrResType
  | .resSeq => .wrResSeq
  | .resLen => .wrResLen
  | .resHcsum => .wrResHcsum
  | .resCcsum => .wrResCcsum
  | .crcAcc => .wrCrcAcc
  | .crcData => .wrCrcData
  | .crcOut => .wrCrcOut

/-- The decode of a transaction by address and size (R52): a register access, a buffer access, or
BusError. Every transaction has exactly one outcome. -/
def decodeRequest (req : Request) : Instr :=
  match req with
  | .read .four a =>
    match regAt a with
    | some r => readOp r
    | none => .busErr req
  | .read .one a =>
    match bufIndex a with
    | some i => .rdBuf i
    | none => .busErr req
  | .read .two _ => .busErr req
  | .read .notPresentable _ => .busErr req
  | .write .four a wdata =>
    match regAt a with
    | some r => writeOp r wdata
    | none => .busErr req
  | .write .one a wdata =>
    match bufIndex a with
    | some i => .wrBuf i wdata
    | none => .busErr req
  | .write .two _ _ => .busErr req
  | .write .notPresentable _ _ => .busErr req

/-! ## The command map -/

/-- The command of a command word: the word against the two defined rows with mask 0xFFFFFFFF,
"every other word is reserved" (R72). -/
def commandOf (w : Word) : Option Command :=
  if w = 0x00000001#32 then some .encode
  else if w = 0x00000002#32 then some .decode
  else none

/-- The operation a command word selects (R72). -/
def decodeCommand (w : Word) : Instr :=
  match commandOf w with
  | some .encode => .cmdEncode
  | some .decode => .cmdDecode
  | none => .cmdReserved w

/-! ## The descriptor -/

/-- The SZ code of a size (R70). -/
def sizeCode : Size → BitVec 2
  | .one => 0#2
  | .two => 1#2
  | .four => 2#2
  | .notPresentable => 3#2

/-- The size of an SZ code (R70). -/
def sizeOfCode (c : BitVec 2) : Size :=
  if c = 0#2 then .one else if c = 1#2 then .two else if c = 2#2 then .four else .notPresentable

/-- W in bit 20, SZ in bits 19:18, A in bits 17:0 (R70). -/
def descriptorOf : Request → Descriptor
  | .read size a => 0#1 ++ sizeCode size ++ a
  | .write size a _ => 1#1 ++ sizeCode size ++ a

/-- The transaction that a descriptor and its data word name; a read has no data word (R70). -/
def requestOfDescriptor (d : Descriptor) (data : Option Word) : Except DecodeError Request :=
  let size := sizeOfCode (d.extractLsb' 18 2)
  let a : BusAddr := d.extractLsb' 0 18
  if d.getLsbD 20 then
    match data with
    | some w => .ok (.write size a w)
    | none => .error .dataWordMissing
  else
    match data with
    | some _ => .error .dataWordOnRead
    | none => .ok (.read size a)

/-! ## The byte image -/

/-- The four bytes of a 32-bit word, bits 7:0 first (log entry 8). -/
def wordBytes (w : Word) : List Byte :=
  [w.extractLsb' 0 8, w.extractLsb' 8 8, w.extractLsb' 16 8, w.extractLsb' 24 8]

/-- The word of four bytes, bits 7:0 first (log entry 8). -/
def wordOfBytes (b0 b1 b2 b3 : Byte) : Word := b3 ++ b2 ++ b1 ++ b0

/-- The three bytes of a descriptor, zero-extended to 24 bits, bits 7:0 first (log entry 8). -/
def descriptorBytes (d : Descriptor) : List Byte :=
  [d.extractLsb' 0 8, d.extractLsb' 8 8, (d.extractLsb' 16 5).setWidth 8]

/-- The 24-bit number of three bytes, bits 7:0 first (log entry 8). -/
def tripleOfBytes (b0 b1 b2 : Byte) : BitVec 24 := b2 ++ b1 ++ b0

/-- The transaction of a 24-bit number, whose bits above bit 20 must be 0, and its data word. -/
def requestOfTriple (t : BitVec 24) (data : Option Word) : Except DecodeError Request :=
  if t.extractLsb' 21 3 = 0#3 then requestOfDescriptor (t.extractLsb' 0 21) data
  else .error .descriptorTooWide

/-- What a byte image presents: a transaction to the port, or a command word to the engine. -/
def presented (bytes : List Byte) : Except DecodeError (Request ⊕ Word) :=
  match bytes with
  | [b0, b1, b2] => (requestOfTriple (tripleOfBytes b0 b1 b2) none).map .inl
  | [b0, b1, b2, b3] => .ok (.inr (wordOfBytes b0 b1 b2 b3))
  | [b0, b1, b2, w0, w1, w2, w3] =>
    (requestOfTriple (tripleOfBytes b0 b1 b2) (some (wordOfBytes w0 w1 w2 w3))).map .inl
  | _ => .error .badLength

/-- The operation of what is presented. -/
def decodePresented : Request ⊕ Word → Instr
  | .inl req => decodeRequest req
  | .inr w => decodeCommand w

/-- Decoding, total on any bytes: three bytes are a read's descriptor, seven a write's descriptor
and data word, four a command word; anything else is rejected by name. -/
def decode (bytes : List Byte) : Except DecodeError Instr :=
  (presented bytes).map decodePresented

/-! ## The encoder -/

/-- The bus address 0x10000 + i of a buffer index (R46). -/
def bufAddr (i : Count) : BusAddr := 0x10000#18 + i.setWidth 18

/-- The transaction or the command word of an operation (R70's operation list, R72). -/
def operationOf : Instr → Request ⊕ Word
  | .rdCtrl => .inl (.read .four 0x00000#18)
  | .wrCtrl w => .inl (.write .four 0x00000#18 w)
  | .rdStatus => .inl (.read .four 0x00004#18)
  | .wrStatus w => .inl (.write .four 0x00004#18 w)
  | .rdCmd => .inl (.read .four 0x00008#18)
  | .wrCmd w => .inl (.write .four 0x00008#18 w)
  | .rdTxType => .inl (.read .four 0x0000C#18)
  | .wrTxType w => .inl (.write .four 0x0000C#18 w)
  | .rdTxSeq => .inl (.read .four 0x00010#18)
  | .wrTxSeq w => .inl (.write .four 0x00010#18 w)
  | .rdTxLen => .inl (.read .four 0x00014#18)
  | .wrTxLen w => .inl (.write .four 0x00014#18 w)
  | .rdRxLen => .inl (.read .four 0x00018#18)
  | .wrRxLen w => .inl (.write .four 0x00018#18 w)
  | .rdFrmLen => .inl (.read .four 0x0001C#18)
  | .wrFrmLen w => .inl (.write .four 0x0001C#18 w)
  | .rdResType => .inl (.read .four 0x00020#18)
  | .wrResType w => .inl (.write .four 0x00020#18 w)
  | .rdResSeq => .inl (.read .four 0x00024#18)
  | .wrResSeq w => .inl (.write .four 0x00024#18 w)
  | .rdResLen => .inl (.read .four 0x00028#18)
  | .wrResLen w => .inl (.write .four 0x00028#18 w)
  | .rdResHcsum => .inl (.read .four 0x0002C#18)
  | .wrResHcsum w => .inl (.write .four 0x0002C#18 w)
  | .rdResCcsum => .inl (.read .four 0x00030#18)
  | .wrResCcsum w => .inl (.write .four 0x00030#18 w)
  | .rdCrcAcc => .inl (.read .four 0x00034#18)
  | .wrCrcAcc w => .inl (.write .four 0x00034#18 w)
  | .rdCrcData => .inl (.read .four 0x00038#18)
  | .wrCrcData w => .inl (.write .four 0x00038#18 w)
  | .rdCrcOut => .inl (.read .four 0x0003C#18)
  | .wrCrcOut w => .inl (.write .four 0x0003C#18 w)
  | .rdBuf i => .inl (.read .one (bufAddr i))
  | .wrBuf i w => .inl (.write .one (bufAddr i) w)
  | .busErr req => .inl req
  | .cmdEncode => .inr 0x00000001#32
  | .cmdDecode => .inr 0x00000002#32
  | .cmdReserved w => .inr w

/-- The byte image of what is presented. -/
def presentedBytes : Request ⊕ Word → List Byte
  | .inl (.read size a) => descriptorBytes (descriptorOf (.read size a))
  | .inl (.write size a w) => descriptorBytes (descriptorOf (.write size a w)) ++ wordBytes w
  | .inr w => wordBytes w

/-- The byte image of an operation. -/
def encode (i : Instr) : List Byte := presentedBytes (operationOf i)

/-! ## The opcode table's numbering -/

/-- The byte image of a table row's word. A BUS row has a 21-bit descriptor, three whole bytes; a
write's data word is the bits above it, zero where the row gives it none. A CMD row has the 32-bit
command word. -/
def tableBytes (nbits w : Nat) : Option (List Byte) :=
  if nbits ≤ 24 then
    if w < 2 ^ 24 then
      let d := descriptorBytesOf w
      some (if w.testBit 20 then d ++ wordBytes 0#32 else d)
    else none
  else if nbits ≤ 32 then
    if w < 2 ^ 32 then some (wordBytes (BitVec.ofNat 32 w)) else none
  else if nbits ≤ 56 then
    if w < 2 ^ 56 then
      let d := descriptorBytesOf w
      if w.testBit 20 then some (d ++ wordBytes (BitVec.ofNat 32 (w / 2 ^ 24)))
      else if w < 2 ^ 24 then some d else none
    else none
  else none
where
  /-- Bits 23:0 of a word as three bytes, bits 7:0 first. -/
  descriptorBytesOf (w : Nat) : List Byte :=
    [BitVec.ofNat 8 w, BitVec.ofNat 8 (w / 2 ^ 8), BitVec.ofNat 8 (w / 2 ^ 16)]

/-- What `decode` reads from a table row's word. -/
def decodeTableWord (nbits w : Nat) : Option Instr :=
  match tableBytes nbits w with
  | some bytes => (decode bytes).toOption
  | none => none

end Sys2Proof
end

