-- ==== Sys2Proof/Machine/Framer.lean ====
section
/-!
DEFINITION. The framer (41_codec.md R120 to R128): the command register and the engine's completion
step for ENCODE and DECODE.
-/
namespace Sys2Proof.Machine

/-! ## The command register -/

/-- What a command word does when the engine is idle: ENCODE and DECODE are accepted, a reserved word
ends at once with BAD_CMD (R120, R205). -/
def issueCommand (word : Word) (s : State) : State :=
  match commandOf word with
  | some c => acceptCommand c s
  | none => endCommand errBadCmd s

/-- WR_CMD (R120): argument state, so dropped while busy (R240). -/
def execWrCmd (wdata : Word) (s : State) : Result := .next (writeArgument (issueCommand wdata) s)

/-- RD_CMD (R128): write-only, reads 0. -/
def execRdCmd (s : State) : Result := .next (answerRead (readValue .cmd s) s)

/-- CMD_RESERVED (R205): a WR_CMD of a reserved word. BAD_CMD while idle, a dropped write while busy. -/
def execCmdReserved (_word : Word) (s : State) : Result :=
  .next (writeArgument (endCommand errBadCmd) s)

/-! ## ENCODE -/

/-- perform(ENCODE) and its commit (R122): the payload BUF[11 .. 11+L) is read, the header is written
to BUF[0 .. 11), the result registers and flags are set. -/
def performEncode (s : State) : State :=
  let (p, d) := drawBytes s.buf Config.hdrSize s.txLen.toNat s.draws
  let k := crc32 p
  let h : Header := ⟨s.txType, s.txSeq, s.txLen, k⟩
  commitResults h k { s with buf := Memory.writeBytes s.buf 0 (headerBytes h), draws := d }

/-- ENCODE: the completion step when ENG = BUSY(ENCODE) (R121, R122); the outcome is always OK. In any
other state the step is not enabled and nothing happens (log entry 7). -/
def execCmdEncode (s : State) : Result :=
  match s.eng with
  | .busy .encode => .next (finishCommand errNone (performEncode s))
  | .busy .decode => .next s
  | .idle => .next s

/-! ## DECODE -/

/-- The declared length L = BE16(BUF[5], BUF[6]), and the draws after reading it (R123). -/
def drawLen (m : Memory) (draws : Nat) : Half × Nat :=
  let (b, d) := drawBytes m 5 2 draws
  (be16 (b.getD 0 0#8) (b.getD 1 0#8), d)

/-- The other fields of the header, the payload BUF[11 .. 11+L), and the draws after reading them
(R123, R75). -/
def drawFrame (m : Memory) (len : Half) (draws : Nat) : Header × List Byte × Nat :=
  let (a, d) := drawBytes m 0 5 draws
  let (c, d) := drawBytes m 7 4 d
  let (p, d) := drawBytes m Config.hdrSize len.toNat d
  let t := a.getD 0 0#8
  let s := be32 (a.getD 1 0#8) (a.getD 2 0#8) (a.getD 3 0#8) (a.getD 4 0#8)
  let h := be32 (c.getD 0 0#8) (c.getD 1 0#8) (c.getD 2 0#8) (c.getD 3 0#8)
  (⟨t, s, len, h⟩, p, d)

/-- perform(DECODE) and its commit (R123): the code of its outcome, and the state it leaves. Each BUF
byte is read once; TOO_SHORT reads none, TRUNCATED reads BUF[5] and BUF[6], success reads exactly
BUF[0 .. 11+L) (R125). -/
def performDecode (s : State) : BitVec 4 × State :=
  let n := s.rxLen.toNat
  if n < Config.hdrSize then (errTooShort, s)
  else
    let (len, d) := drawLen s.buf s.draws
    if len.toNat > n - Config.hdrSize then (errTruncated, { s with draws := d })
    else
      let (h, p, d) := drawFrame s.buf len d
      (errNone, commitResults h (crc32 p) { s with draws := d })

/-- DECODE: the completion step when ENG = BUSY(DECODE) (R121, R123). In any other state the step is
not enabled and nothing happens (log entry 7). -/
def execCmdDecode (s : State) : Result :=
  match s.eng with
  | .busy .decode =>
    let (code, t) := performDecode s
    .next (finishCommand code t)
  | .busy .encode => .next s
  | .idle => .next s

end Sys2Proof.Machine
end

