-- ==== Sys2Proof/Machine/RegAccess.lean ====
section
/-!
DEFINITION. Register access (42_register_access.md R150 to R173): CTRL, STATUS, the argument
registers and the result registers. CMD is in Framer.lean, the CRC unit in CrcUnit.lean.
-/
namespace Sys2Proof.Machine

/-! ## Control and status -/

/-- RD_CTRL (R150). -/
def execRdCtrl (s : State) : Result := .next (answerRead (readValue .ctrl s) s)

/-- WR_CTRL (R151): never dropped. -/
def execWrCtrl (wdata : Word) (s : State) : Result := .next (answerWrite { s with ie := ieOf wdata })

/-- RD_STATUS (R152). -/
def execRdStatus (s : State) : Result := .next (answerRead (readValue .status s) s)

/-- WR_STATUS (R153): never dropped. -/
def execWrStatus (wdata : Word) (s : State) : Result := .next (answerWrite (clearStatus wdata s))

/-! ## Argument registers -/

/-- RD_TX_TYPE (R154). -/
def execRdTxType (s : State) : Result := .next (answerRead (readValue .txType s) s)

/-- WR_TX_TYPE (R155): argument state. -/
def execWrTxType (wdata : Word) (s : State) : Result :=
  .next (writeArgument (fun t => { t with txType := lowByte wdata }) s)

/-- RD_TX_SEQ (R156). -/
def execRdTxSeq (s : State) : Result := .next (answerRead (readValue .txSeq s) s)

/-- WR_TX_SEQ (R157): argument state. -/
def execWrTxSeq (wdata : Word) (s : State) : Result :=
  .next (writeArgument (fun t => { t with txSeq := wdata }) s)

/-- RD_TX_LEN (R158). -/
def execRdTxLen (s : State) : Result := .next (answerRead (readValue .txLen s) s)

/-- WR_TX_LEN (R159): argument state. -/
def execWrTxLen (wdata : Word) (s : State) : Result :=
  .next (writeArgument (fun t => { t with txLen := lowHalf wdata }) s)

/-- RD_RX_LEN (R160). -/
def execRdRxLen (s : State) : Result := .next (answerRead (readValue .rxLen s) s)

/-- WR_RX_LEN (R161): argument state. -/
def execWrRxLen (wdata : Word) (s : State) : Result :=
  .next (writeArgument (fun t => { t with rxLen := clampedCount wdata }) s)

/-! ## Result registers -/

/-- RD_FRM_LEN (R162). -/
def execRdFrmLen (s : State) : Result := .next (answerRead (readValue .frmLen s) s)

/-- WR_FRM_LEN (R163): read-only, the write is ignored. -/
def execWrFrmLen (_wdata : Word) (s : State) : Result := .next (answerWrite s)

/-- RD_RES_TYPE (R164). -/
def execRdResType (s : State) : Result := .next (answerRead (readValue .resType s) s)

/-- WR_RES_TYPE (R165): read-only, the write is ignored. -/
def execWrResType (_wdata : Word) (s : State) : Result := .next (answerWrite s)

/-- RD_RES_SEQ (R166). -/
def execRdResSeq (s : State) : Result := .next (answerRead (readValue .resSeq s) s)

/-- WR_RES_SEQ (R167): read-only, the write is ignored. -/
def execWrResSeq (_wdata : Word) (s : State) : Result := .next (answerWrite s)

/-- RD_RES_LEN (R168). -/
def execRdResLen (s : State) : Result := .next (answerRead (readValue .resLen s) s)

/-- WR_RES_LEN (R169): read-only, the write is ignored. -/
def execWrResLen (_wdata : Word) (s : State) : Result := .next (answerWrite s)

/-- RD_RES_HCSUM (R170). -/
def execRdResHcsum (s : State) : Result := .next (answerRead (readValue .resHcsum s) s)

/-- WR_RES_HCSUM (R171): read-only, the write is ignored. -/
def execWrResHcsum (_wdata : Word) (s : State) : Result := .next (answerWrite s)

/-- RD_RES_CCSUM (R172). -/
def execRdResCcsum (s : State) : Result := .next (answerRead (readValue .resCcsum s) s)

/-- WR_RES_CCSUM (R173): read-only, the write is ignored. -/
def execWrResCcsum (_wdata : Word) (s : State) : Result := .next (answerWrite s)

end Sys2Proof.Machine
end

