-- ==== Sys2Proof/Machine/Dispatch.lean ====
section
/-!
DEFINITION. The dispatch: one arm for each operation of the opcode table.
-/
namespace Sys2Proof.Machine

def exec (i : Instr) (s : State) : Host.Outcome State Fault Refusal :=
  match i with
  | .rdCtrl => Sys2Proof.Machine.execRdCtrl s
  | .wrCtrl wdata => Sys2Proof.Machine.execWrCtrl wdata s
  | .rdStatus => Sys2Proof.Machine.execRdStatus s
  | .wrStatus wdata => Sys2Proof.Machine.execWrStatus wdata s
  | .rdCmd => Sys2Proof.Machine.execRdCmd s
  | .wrCmd wdata => Sys2Proof.Machine.execWrCmd wdata s
  | .rdTxType => Sys2Proof.Machine.execRdTxType s
  | .wrTxType wdata => Sys2Proof.Machine.execWrTxType wdata s
  | .rdTxSeq => Sys2Proof.Machine.execRdTxSeq s
  | .wrTxSeq wdata => Sys2Proof.Machine.execWrTxSeq wdata s
  | .rdTxLen => Sys2Proof.Machine.execRdTxLen s
  | .wrTxLen wdata => Sys2Proof.Machine.execWrTxLen wdata s
  | .rdRxLen => Sys2Proof.Machine.execRdRxLen s
  | .wrRxLen wdata => Sys2Proof.Machine.execWrRxLen wdata s
  | .rdFrmLen => Sys2Proof.Machine.execRdFrmLen s
  | .wrFrmLen wdata => Sys2Proof.Machine.execWrFrmLen wdata s
  | .rdResType => Sys2Proof.Machine.execRdResType s
  | .wrResType wdata => Sys2Proof.Machine.execWrResType wdata s
  | .rdResSeq => Sys2Proof.Machine.execRdResSeq s
  | .wrResSeq wdata => Sys2Proof.Machine.execWrResSeq wdata s
  | .rdResLen => Sys2Proof.Machine.execRdResLen s
  | .wrResLen wdata => Sys2Proof.Machine.execWrResLen wdata s
  | .rdResHcsum => Sys2Proof.Machine.execRdResHcsum s
  | .wrResHcsum wdata => Sys2Proof.Machine.execWrResHcsum wdata s
  | .rdResCcsum => Sys2Proof.Machine.execRdResCcsum s
  | .wrResCcsum wdata => Sys2Proof.Machine.execWrResCcsum wdata s
  | .rdCrcAcc => Sys2Proof.Machine.execRdCrcAcc s
  | .wrCrcAcc wdata => Sys2Proof.Machine.execWrCrcAcc wdata s
  | .rdCrcData => Sys2Proof.Machine.execRdCrcData s
  | .wrCrcData wdata => Sys2Proof.Machine.execWrCrcData wdata s
  | .rdCrcOut => Sys2Proof.Machine.execRdCrcOut s
  | .wrCrcOut wdata => Sys2Proof.Machine.execWrCrcOut wdata s
  | .rdBuf idx => Sys2Proof.Machine.execRdBuf idx s
  | .wrBuf idx wdata => Sys2Proof.Machine.execWrBuf idx wdata s
  | .busErr req => Sys2Proof.Machine.execBusErr req s
  | .cmdEncode => Sys2Proof.Machine.execCmdEncode s
  | .cmdDecode => Sys2Proof.Machine.execCmdDecode s
  | .cmdReserved word => Sys2Proof.Machine.execCmdReserved word s

end Sys2Proof.Machine
end

