-- ==== Sys2Proof/Machine/Fetch.lean ====
section
/-!
DEFINITION. Which transition comes next: the head of `events` names the agent whose turn it is
(10_state.md R20, log entry 1); when no event is left the engine, if it is busy, completes (R5's
fairness, log entry 2). And how an operation is presented to the machine from outside.
-/
namespace Sys2Proof.Machine

/-- The operation of the engine's completion step (R121): ENG = BUSY(c) enables it, and c names it. -/
def engineInstr (e : Engine) : Option Instr :=
  match e with
  | .idle => none
  | .busy .encode => some .cmdEncode
  | .busy .decode => some .cmdDecode

/-- The operation that the next step runs: the transaction the host presents, decoded by the bus
decode (R52), or the engine's completion step. None when the turn is reset's, or the engine's while
idle. -/
def nextInstr (s : State) : Option Instr :=
  match s.events with
  | [] => engineInstr s.eng
  | .host req :: _ => some (decodeRequest req)
  | .engine :: _ => engineInstr s.eng
  | .reset :: _ => none

/-- The state with the turn at the head of `events` taken off. -/
def takeTurn (s : State) : State := { s with events := s.events.tail }

/-- A turn in which no operation runs: reset does its transition (R230); an idle engine's turn, or an
empty `events` with the engine idle, changes nothing else (log entries 2 and 7). -/
def turnWithoutInstr (s : State) : State :=
  match s.events with
  | [] => s
  | .host _ :: _ => takeTurn s
  | .engine :: _ => takeTurn s
  | .reset :: _ => resetBlock (takeTurn s)

/-- The state in which a transaction is presented next. -/
def presentRequest (req : Request) (s : State) : State :=
  { s with events := .host req :: s.events }

/-- The state in which a command word's operation comes next: the completion step of ENCODE or DECODE
with the engine holding that command, or the host's write of a reserved word (R72, R120, R121). -/
def presentCommand (w : Word) (s : State) : State :=
  match commandOf w with
  | some c => { s with eng := .busy c, events := .engine :: s.events }
  | none => presentRequest (.write .four (Config.offset .cmd) w) s

/-- The state in which a table row's word comes next (log entry 9); a word that is no operation leaves
the state. -/
def presentTableWord (s : State) (nbits w : Nat) : State :=
  match tableBytes nbits w with
  | none => s
  | some bytes =>
    match presented bytes with
    | .ok (.inl req) => presentRequest req s
    | .ok (.inr word) => presentCommand word s
    | .error _ => s

end Sys2Proof.Machine
end

