-- ==== Sys2Proof/Machine/Step.lean ====
section
/-!
DEFINITION. One step: one transition of one agent (10_state.md R20, R21).
-/
namespace Sys2Proof.Machine

/-- One step of the machine: the operation whose turn it is, or a turn in which none runs. -/
def step (s : State) : Host.Outcome State Fault Refusal :=
  match nextInstr s with
  | some i => exec i (takeTurn s)
  | none => .next (turnWithoutInstr s)

/-- `s` with a table row's word placed where the next step takes its operation from (log entry 9). -/
def State.withFetchWord (s : State) (nbits w : Nat) : State := presentTableWord s nbits w

end Sys2Proof.Machine
end

