-- ==== Sys2Proof/Machine/HostNotation.lean ====
section
/-!
DEFINITION. The host program notation and its pseudo-operations (30_encoding.md R80, R81): each line
is one transaction, each pseudo-operation a fixed sequence of them, `wait` a loop of the host's.
-/
namespace Sys2Proof.Machine

/-- `wr REG, v` (R80). -/
def hostWr (r : Reg) (v : Word) : Request := .write .four (Config.offset r) v

/-- `rd REG` (R80). -/
def hostRd (r : Reg) : Request := .read .four (Config.offset r)

/-- `wrb i, b` (R80). -/
def hostWrb (i : Count) (b : Byte) : Request := .write .one (bufAddr i) (b.setWidth 32)

/-- `rdb i` (R80). -/
def hostRdb (i : Count) : Request := .read .one (bufAddr i)

/-- The command word of a command (R72). -/
def commandWord : Command → Word
  | .encode => 0x00000001#32
  | .decode => 0x00000002#32

/-- `cmd ENCODE` and `cmd DECODE` (R81). -/
def hostCmd (c : Command) : Request := hostWr .cmd (commandWord c)

/-- `crcinit` (R81). -/
def hostCrcinit : Request := hostWr .crcAcc 0xFFFFFFFF#32

/-- `crcb b` (R81). -/
def hostCrcb (b : Byte) : Request := hostWr .crcData (b.setWidth 32)

/-- `fill i, b0, ..., bn` (R81). -/
def hostFill (i : Count) : List Byte → List Request
  | [] => []
  | b :: rest => hostWrb i b :: hostFill (i + 1#17) rest

/-- `dump i, n` (R81). -/
def hostDump (i : Count) : Nat → List Request
  | 0 => []
  | n + 1 => hostRdb i :: hostDump (i + 1#17) n

/-- `ackdone` (R81). -/
def hostAckdone : Request := hostWr .status 0x00000002#32

/-- `clrovr` (R81). -/
def hostClrovr : Request := hostWr .status 0x00000004#32

/-- One poll of `wait` (R81). -/
def hostPoll : Request := hostRd .status

/-- `wait` ends when the last poll's bit [0] is 0 (R81, R242). -/
def waitEnds (s : State) : Bool :=
  match s.resp with
  | some ⟨v, .ok⟩ => !v.getLsbD 0
  | _ => false

/-- The block serving a list of transactions "one at a time, in the order the host issues them", with
no turn of another agent between them (R60). -/
def serve (reqs : List Request) (s : State) : Result :=
  match reqs with
  | [] => .next s
  | req :: rest =>
    match exec (decodeRequest req) s with
    | .next t => serve rest t
    | .fault r => .fault r
    | .refused r => .refused r

end Sys2Proof.Machine
end

