-- ==== Sys2Proof/Safety.lean ====
section
/-!
DEFINITION. What a good state is, in the terms statements use: the invariant that holds right after
reset and that every step keeps.
-/
namespace Sys2Proof.Machine

/-- BUF keeps its canonical form. -/
def State.bufOk (s : State) : Prop := Memory.wf s.buf = true

/-- RX_LEN holds a legal value, 0 to 65546 (R36). -/
def State.rxLenLegal (s : State) : Prop := s.rxLen.toNat ≤ Config.frameCap

/-- ERR is one of the four codes; "the block never produces codes 4 to 15" (R28). -/
def State.errLegal (s : State) : Prop := s.err.toNat ≤ 3

/-- While a command is pending DONE and ERR read 0 (R120, R241). -/
def State.pendingIsSilent (s : State) : Prop :=
  s.eng ≠ .idle → s.done = false ∧ s.err = 0#4

/-- TYPE_KNOWN says whether RES_TYPE is one of the six codes (R30, R38). -/
def State.typeFlagAgrees (s : State) : Prop := s.typeKnown = typeIsKnown s.resType

/-- Either no command has succeeded since reset and the result registers hold their reset values, or
FRM_LEN = 11 + RES_LEN and CRC_OK says whether the two checksums agree (R29, R37, R40 to R42). -/
def State.resultsAgree (s : State) : Prop :=
  (s.frmLen = 0#17 ∧ s.resType = 0#8 ∧ s.resSeq = 0#32 ∧ s.resLen = 0#16 ∧ s.resHcsum = 0#32 ∧
      s.resCcsum = 0#32 ∧ s.crcOk = false) ∨
    (s.frmLen.toNat = Config.hdrSize + s.resLen.toNat ∧ s.crcOk = decide (s.resHcsum = s.resCcsum))

/-- The invariant. -/
structure State.Inv (s : State) : Prop where
  bufOk : s.bufOk
  rxLenLegal : s.rxLenLegal
  errLegal : s.errLegal
  pendingIsSilent : s.pendingIsSilent
  typeFlagAgrees : s.typeFlagAgrees
  resultsAgree : s.resultsAgree

/-- The operations that write argument state (R240): TX_TYPE, TX_SEQ, TX_LEN, RX_LEN, CMD and BUF. -/
def writesArgument : Instr → Bool
  | .wrTxType _ | .wrTxSeq _ | .wrTxLen _ | .wrRxLen _ | .wrCmd _ | .wrBuf _ _ | .cmdReserved _ => true
  | .rdCtrl | .rdStatus | .rdCmd | .rdTxType | .rdTxSeq | .rdTxLen | .rdRxLen | .rdFrmLen => false
  | .rdResType | .rdResSeq | .rdResLen | .rdResHcsum | .rdResCcsum => false
  | .rdCrcAcc | .rdCrcData | .rdCrcOut | .rdBuf _ | .busErr _ => false
  | .wrCtrl _ | .wrStatus _ | .wrFrmLen _ | .wrResType _ | .wrResSeq _ | .wrResLen _ => false
  | .wrResHcsum _ | .wrResCcsum _ | .wrCrcAcc _ | .wrCrcData _ | .wrCrcOut _ => false
  | .cmdEncode | .cmdDecode => false

/-- The descriptor `d`, with no data word, is decoded as `i` (R70). -/
def readsAt (d : Descriptor) (i : Instr) : Prop := decode (descriptorBytes d) = .ok i

/-- The descriptor `d` with a data word is decoded as the write of that word (R70). -/
def writesAt (d : Descriptor) (op : Word → Instr) : Prop :=
  ∀ w : Word, decode (descriptorBytes d ++ wordBytes w) = .ok (op w)

/-- A write is answered OK with some 32-bit rdata, and leaves the state `t`, the response and the counter of
free values apart (R50); which rdata is said of no write (log entry 5). -/
def answersWrite (o : Result) (t : State) : Prop :=
  ∃ (rdata : Word) (d : Nat), o = .next { t with resp := some ⟨rdata, .ok⟩, draws := d }

/-- The block's state, R49's record, is the same in two states; nothing is said of the model's own fields. -/
def State.sameBlock (t u : State) : Prop :=
  { t with resp := u.resp, draws := u.draws, events := u.events } = u

/-- The operation of a command's completion step (R121). -/
def completionOf : Command → Instr
  | .encode => .cmdEncode
  | .decode => .cmdDecode

/-- It is the engine's turn: its event comes next, or no event is left (log entries 1 and 2). -/
def State.engineTurn (s : State) : Prop := s.events = [] ∨ ∃ rest, s.events = .engine :: rest

/-- The host presents `req` next. -/
def State.hostTurn (s : State) (req : Request) : Prop := ∃ rest, s.events = .host req :: rest

/-- rst is asserted next. -/
def State.resetTurn (s : State) : Prop := ∃ rest, s.events = .reset :: rest

/-- `f` gives every byte of BUF a value, the written ones the value written (R231: a byte never written
may be read as any value). -/
def Memory.mayReadAs (m : Memory) (f : Nat → Byte) : Prop :=
  ∀ i b, Memory.read m i = some b → f i = b

/-- The byte sequence f[start .. start+n). -/
def sequenceOf (f : Nat → Byte) (start n : Nat) : List Byte := (List.range n).map fun k => f (start + k)

/-- The result registers and result flags of two states are the same (R37 to R42, R29, R30). -/
def State.sameResults (s t : State) : Prop :=
  t.frmLen = s.frmLen ∧ t.resType = s.resType ∧ t.resSeq = s.resSeq ∧ t.resLen = s.resLen ∧
    t.resHcsum = s.resHcsum ∧ t.resCcsum = s.resCcsum ∧ t.crcOk = s.crcOk ∧ t.typeKnown = s.typeKnown

/-- The argument registers and BUF of two states are the same (R240). -/
def State.sameArguments (s t : State) : Prop :=
  t.txType = s.txType ∧ t.txSeq = s.txSeq ∧ t.txLen = s.txLen ∧ t.rxLen = s.rxLen ∧ t.buf = s.buf

/-- A turn that writes no argument state: the engine's, or a transaction such as a poll of STATUS (R240). -/
def Event.quiet (e : Event) : Prop :=
  e = .engine ∨ ∃ req, e = .host req ∧ writesArgument (decodeRequest req) = false

/-- `t` is reached from `s` by `k` steps. -/
def State.runs (s : State) (k : Nat) (t : State) : Prop :=
  match k with
  | 0 => s = t
  | n + 1 => ∃ u, step s = .next u ∧ State.runs u n t

end Sys2Proof.Machine
end

