-- ==== Sys2Proof/Certificates/Slice0/Obligations.lean ====
section
/-!
DEFINITION. The statements for the provers, in the order of OBLIGATIONS.json. A frame is an equality
of states: a record update names every field an operation writes, so every other field (every
register and flag, BUF, the model's own fields) is unchanged. Where only some bytes of BUF change,
`{ t with buf := s.buf } = …` says it of the other fields, and a clause on `Memory.read` of every byte.
`answersWrite` (Safety.lean) says that a write is answered OK with some rdata and not which, and `sameBlock` nothing of
the model's own fields, which the spec does not fix (log entries 3 to 5).
-/

open Sys2Proof Sys2Proof.Machine

/-! ## Register reads -/

/-- RD_CTRL (R150), descriptor 0x080000: IE in bit 0, every other bit 0, at any ENG. -/
def Obligations.ReadCtrlReturnsTheEnableBit : Prop :=
  readsAt 0x080000#21 .rdCtrl ∧
  ∀ s : State, exec .rdCtrl s = .next { s with resp := some ⟨if s.ie then 1#32 else 0#32, .ok⟩ }

/-- RD_STATUS (R152), descriptor 0x080004: the place of every flag, and 0 in bit 3 and bits 31:10. -/
def Obligations.ReadStatusPlacesEveryFlag : Prop :=
  readsAt 0x080004#21 .rdStatus ∧
  ∀ s : State, ∃ v : Word,
    exec .rdStatus s = .next { s with resp := some ⟨v, .ok⟩ } ∧
    v.getLsbD 0 = decide (s.eng ≠ .idle) ∧
    v.getLsbD 1 = s.done ∧
    v.getLsbD 2 = s.ovr ∧
    v.getLsbD 3 = false ∧
    v.extractLsb' 4 4 = s.err ∧
    v.getLsbD 8 = s.crcOk ∧
    v.getLsbD 9 = s.typeKnown ∧
    v.extractLsb' 10 22 = 0#22

/-- RD_TX_TYPE, RD_TX_SEQ, RD_TX_LEN, RD_RX_LEN (R154, R156, R158, R160): the register zero-extended, at
any ENG; RX_LEN reads at most 65546 where it holds a legal value (invariant, EveryStepKeepsTheInvariant). -/
def Obligations.ReadArgumentRegisters : Prop :=
  readsAt 0x08000C#21 .rdTxType ∧ readsAt 0x080010#21 .rdTxSeq ∧
  readsAt 0x080014#21 .rdTxLen ∧ readsAt 0x080018#21 .rdRxLen ∧
  ∀ s : State,
    exec .rdTxType s = .next { s with resp := some ⟨s.txType.setWidth 32, .ok⟩ } ∧
    exec .rdTxSeq s = .next { s with resp := some ⟨s.txSeq, .ok⟩ } ∧
    exec .rdTxLen s = .next { s with resp := some ⟨s.txLen.setWidth 32, .ok⟩ } ∧
    exec .rdRxLen s = .next { s with resp := some ⟨s.rxLen.setWidth 32, .ok⟩ } ∧
    (s.rxLen.toNat ≤ 65546 → (s.rxLen.setWidth 32).toNat ≤ 65546)

/-- RD_FRM_LEN and RD_RES_* (R162, R164, R166, R168, R170, R172), at their descriptors: the
register zero-extended. -/
def Obligations.ReadResultRegisters : Prop :=
  readsAt 0x08001C#21 .rdFrmLen ∧ readsAt 0x080020#21 .rdResType ∧ readsAt 0x080024#21 .rdResSeq ∧
  readsAt 0x080028#21 .rdResLen ∧ readsAt 0x08002C#21 .rdResHcsum ∧ readsAt 0x080030#21 .rdResCcsum ∧
  ∀ s : State,
    exec .rdFrmLen s = .next { s with resp := some ⟨s.frmLen.setWidth 32, .ok⟩ } ∧
    exec .rdResType s = .next { s with resp := some ⟨s.resType.setWidth 32, .ok⟩ } ∧
    exec .rdResSeq s = .next { s with resp := some ⟨s.resSeq, .ok⟩ } ∧
    exec .rdResLen s = .next { s with resp := some ⟨s.resLen.setWidth 32, .ok⟩ } ∧
    exec .rdResHcsum s = .next { s with resp := some ⟨s.resHcsum, .ok⟩ } ∧
    exec .rdResCcsum s = .next { s with resp := some ⟨s.resCcsum, .ok⟩ }

/-- RD_CRC_ACC and RD_CRC_OUT, by the pseudocode of R108 and R104: rdata is the raw register, and its
complement. -/
def Obligations.ReadCrcRegisters : Prop :=
  readsAt 0x080034#21 .rdCrcAcc ∧ readsAt 0x08003C#21 .rdCrcOut ∧
  ∀ s : State,
    exec .rdCrcAcc s = .next { s with resp := some ⟨s.crcAcc, .ok⟩ } ∧
    exec .rdCrcOut s = .next { s with resp := some ⟨~~~s.crcAcc, .ok⟩ }

/-- RD_CMD and RD_CRC_DATA (R128, R107): 0, and no state change. -/
def Obligations.WriteOnlyRegistersReadZero : Prop :=
  readsAt 0x080008#21 .rdCmd ∧ readsAt 0x080038#21 .rdCrcData ∧
  ∀ s : State,
    exec .rdCmd s = .next { s with resp := some ⟨0#32, .ok⟩ } ∧
    exec .rdCrcData s = .next { s with resp := some ⟨0#32, .ok⟩ }

/-! ## Register writes -/

/-- WR_CTRL (R151): IE takes wdata[0] at any ENG, and irq is DONE & IE at once. -/
def Obligations.WriteCtrlSetsTheEnableBit : Prop :=
  writesAt 0x180000#21 .wrCtrl ∧
  ∀ (s : State) (w : Word), ∃ t,
    answersWrite (exec (.wrCtrl w) s) t ∧ t = { s with ie := w.getLsbD 0 } ∧
    t.irq = (s.done && w.getLsbD 0)

/-- WR_STATUS (R153): DONE and OVR are cleared by a 1 and kept by a 0, at any ENG; nothing else. -/
def Obligations.WriteStatusClearsWhereOne : Prop :=
  writesAt 0x180004#21 .wrStatus ∧
  ∀ (s : State) (w : Word), ∃ t,
    answersWrite (exec (.wrStatus w) s) t ∧
    { t with done := s.done, ovr := s.ovr } = s ∧
    (w.getLsbD 1 = true → t.done = false ∧ t.irq = false) ∧ (w.getLsbD 1 = false → t.done = s.done) ∧
    (w.getLsbD 2 = true → t.ovr = false) ∧ (w.getLsbD 2 = false → t.ovr = s.ovr)

/-- WR_TX_TYPE, WR_TX_SEQ, WR_TX_LEN, WR_RX_LEN (R155, R157, R159, R161): the register takes its operand
while idle; while busy the write is dropped and OVR set. RX_LEN clamps the whole 32-bit value. -/
def Obligations.WriteArgumentRegisters : Prop :=
  writesAt 0x18000C#21 .wrTxType ∧ writesAt 0x180010#21 .wrTxSeq ∧
  writesAt 0x180014#21 .wrTxLen ∧ writesAt 0x180018#21 .wrRxLen ∧
  ∀ (s : State) (w : Word),
    (s.eng = .idle →
      answersWrite (exec (.wrTxType w) s) { s with txType := w.extractLsb' 0 8 } ∧
      answersWrite (exec (.wrTxSeq w) s) { s with txSeq := w } ∧
      answersWrite (exec (.wrTxLen w) s) { s with txLen := w.extractLsb' 0 16 } ∧
      ∃ n : Count, n.toNat = min w.toNat 65546 ∧ answersWrite (exec (.wrRxLen w) s) { s with rxLen := n }) ∧
    (s.eng ≠ .idle →
      answersWrite (exec (.wrTxType w) s) { s with ovr := true } ∧
      answersWrite (exec (.wrTxSeq w) s) { s with ovr := true } ∧
      answersWrite (exec (.wrTxLen w) s) { s with ovr := true } ∧
      answersWrite (exec (.wrRxLen w) s) { s with ovr := true })

/-- Writes to the read-only registers (R105, R163, R165, R167, R169, R171, R173): no state change, the
response OK, busy or not. -/
def Obligations.WritesToReadOnlyRegistersAreIgnored : Prop :=
  writesAt 0x18003C#21 .wrCrcOut ∧ writesAt 0x18001C#21 .wrFrmLen ∧ writesAt 0x180020#21 .wrResType ∧
  writesAt 0x180024#21 .wrResSeq ∧ writesAt 0x180028#21 .wrResLen ∧ writesAt 0x18002C#21 .wrResHcsum ∧
  writesAt 0x180030#21 .wrResCcsum ∧
  ∀ (s : State) (w : Word),
    answersWrite (exec (.wrCrcOut w) s) s ∧
    answersWrite (exec (.wrFrmLen w) s) s ∧
    answersWrite (exec (.wrResType w) s) s ∧
    answersWrite (exec (.wrResSeq w) s) s ∧
    answersWrite (exec (.wrResLen w) s) s ∧
    answersWrite (exec (.wrResHcsum w) s) s ∧
    answersWrite (exec (.wrResCcsum w) s) s

/-- WR_CRC_ACC and WR_CRC_DATA (R109, R106), at any ENG: CRC_ACC alone changes. -/
def Obligations.CrcUnitWritesChangeTheAccumulatorAlone : Prop :=
  writesAt 0x180034#21 .wrCrcAcc ∧ writesAt 0x180038#21 .wrCrcData ∧
  ∀ (s : State) (w : Word),
    answersWrite (exec (.wrCrcAcc w) s) { s with crcAcc := w } ∧
    answersWrite (exec (.wrCrcData w) s) { s with crcAcc := crcStep s.crcAcc (w.extractLsb' 0 8) }

/-! ## The frame buffer and bus errors -/

/-- RD_BUF (R174), descriptor 0x010000 + i: a byte zero-extended, at any ENG, no state change. It is the byte
written last; of a byte never written the statement says nothing but that some byte is read (R231), and
`draws` is the model's own counter. -/
def Obligations.ReadBufReturnsTheByte : Prop :=
  ∀ (s : State) (i : Count), i.toNat < 65546 →
    readsAt (0x010000#21 + i.setWidth 21) (.rdBuf i) ∧
    ∃ (b : Byte) (d : Nat),
      exec (.rdBuf i) s = .next { s with resp := some ⟨b.setWidth 32, .ok⟩, draws := d } ∧
      ∀ c, Memory.read s.buf i.toNat = some c → b = c ∧ d = s.draws

/-- WR_BUF (R175): while idle BUF[i] takes wdata[7:0] and every other byte keeps its value; while busy the
write is dropped and OVR set. -/
def Obligations.WriteBufStoresOneByte : Prop :=
  ∀ (s : State) (i : Count) (w : Word), i.toNat < 65546 →
    writesAt (0x110000#21 + i.setWidth 21) (.wrBuf i) ∧
    (s.eng = .idle → ∃ t, answersWrite (exec (.wrBuf i w) s) t ∧
      Memory.read t.buf i.toNat = some (w.extractLsb' 0 8) ∧
      (∀ j, j ≠ i.toNat → Memory.read t.buf j = Memory.read s.buf j) ∧
      { t with buf := s.buf } = s) ∧
    (s.eng ≠ .idle → answersWrite (exec (.wrBuf i w) s) { s with ovr := true })

/-- BUS_ERR (R176, R201): every transaction that R52 does not admit is one, and then the response is ERROR
with rdata = 0, for a read and for a write (92_eei_decisions.md D32), and nothing else changes, at any ENG. -/
def Obligations.BusErrorChangesNothing : Prop :=
  (∀ req : Request, req.admitted = false → decodeRequest req = .busErr req) ∧
  ∀ (s : State) (req : Request), exec (.busErr req) s = .next { s with resp := some ⟨0#32, .error⟩ }

/-- The bus error comes before everything else (R207 point 1, R52 case 3): a transaction that R52 does not
admit is answered ERROR whatever ENG is, and is neither a dropped write nor a command. -/
def Obligations.BusErrorComesBeforeTheBusyCheck : Prop :=
  ∀ (s : State) (req : Request) (rest : List Event),
    s.events = .host req :: rest → req.admitted = false →
    step s = .next { s with events := rest, resp := some ⟨0#32, .error⟩ }

/-! ## Commands -/

/-- WR_CMD (R120): dropped while busy; while idle a defined word is accepted, clearing DONE and ERR, and any
other word ends at once with BAD_CMD. The response is OK in every case. -/
def Obligations.WriteCmdIssuesACommand : Prop :=
  writesAt 0x180008#21 .wrCmd ∧
  ∀ (s : State) (w : Word),
    (s.eng ≠ .idle → answersWrite (exec (.wrCmd w) s) { s with ovr := true }) ∧
    (s.eng = .idle → w = 1#32 →
      answersWrite (exec (.wrCmd w) s) { s with done := false, err := 0#4, eng := .busy .encode }) ∧
    (s.eng = .idle → w = 2#32 →
      answersWrite (exec (.wrCmd w) s) { s with done := false, err := 0#4, eng := .busy .decode }) ∧
    (s.eng = .idle → w ≠ 1#32 → w ≠ 2#32 →
      answersWrite (exec (.wrCmd w) s) { s with err := 3#4, done := true })

/-- CMD_RESERVED (R205): BAD_CMD at once while idle, with no BUSY phase and no commit; a dropped write while
busy; and it is what WR_CMD does with that word. -/
def Obligations.ReservedCommandIsBadCmd : Prop :=
  ∀ (s : State) (w : Word), w ≠ 1#32 → w ≠ 2#32 →
    decode (wordBytes w) = .ok (.cmdReserved w) ∧
    exec (.cmdReserved w) s = exec (.wrCmd w) s ∧
    (s.eng = .idle → answersWrite (exec (.cmdReserved w) s) { s with err := 3#4, done := true }) ∧
    (s.eng ≠ .idle → answersWrite (exec (.cmdReserved w) s) { s with ovr := true })

/-- ENCODE (R122, by the completion step): the header is written to BUF[0 .. 11), every other byte of BUF
keeps its value, and the result registers, the flags, ERR, DONE and ENG are as the rule says. `p` is the
payload as the engine reads it: a byte never written is a free value (log entry 3), a written one itself. -/
def Obligations.EncodeWritesTheHeaderAndResults : Prop :=
  decode (wordBytes 0x00000001#32) = .ok .cmdEncode ∧
  ∀ s : State, s.eng = .busy .encode → ∃ (p : List Byte) (t : State),
    p.length = s.txLen.toNat ∧
    (∀ k b, k < s.txLen.toNat → Memory.read s.buf (11 + k) = some b → p[k]? = some b) ∧
    exec .cmdEncode s = .next t ∧
    (∀ j, j < 11 → Memory.read t.buf j =
      [s.txType, s.txSeq.extractLsb' 24 8, s.txSeq.extractLsb' 16 8, s.txSeq.extractLsb' 8 8,
        s.txSeq.extractLsb' 0 8, s.txLen.extractLsb' 8 8, s.txLen.extractLsb' 0 8,
        (crc32 p).extractLsb' 24 8, (crc32 p).extractLsb' 16 8, (crc32 p).extractLsb' 8 8,
        (crc32 p).extractLsb' 0 8][j]?) ∧
    (∀ j, 11 ≤ j → Memory.read t.buf j = Memory.read s.buf j) ∧
    t.frmLen.toNat = 11 + s.txLen.toNat ∧
    State.sameBlock { t with buf := s.buf, frmLen := s.frmLen }
      { s with
        resType := s.txType, resSeq := s.txSeq, resLen := s.txLen, resHcsum := crc32 p,
        resCcsum := crc32 p, crcOk := true,
        typeKnown := decide (0x01 ≤ s.txType.toNat ∧ s.txType.toNat ≤ 0x06),
        err := 0#4, done := true, eng := .idle }

/-- DECODE (R123, R203, R204, by the completion step): TOO_SHORT, then TRUNCATED, else the fields, the
checksum comparison and the type flag. BUF never changes. `f` is BUF as the engine reads it: a byte never
written is a free value (log entry 3), a written one itself. -/
def Obligations.DecodeChecksAndParsesTheFrame : Prop :=
  decode (wordBytes 0x00000002#32) = .ok .cmdDecode ∧
  ∀ s : State, s.eng = .busy .decode → ∃ (f : Nat → Byte) (t : State),
    Memory.mayReadAs s.buf f ∧
    exec .cmdDecode s = .next t ∧
    (s.rxLen.toNat < 11 → State.sameBlock t { s with err := 1#4, done := true, eng := .idle }) ∧
    (11 ≤ s.rxLen.toNat → (f 5 ++ f 6 : Half).toNat > s.rxLen.toNat - 11 →
      State.sameBlock t { s with err := 2#4, done := true, eng := .idle }) ∧
    (11 ≤ s.rxLen.toNat → (f 5 ++ f 6 : Half).toNat ≤ s.rxLen.toNat - 11 →
      t.frmLen.toNat = 11 + (f 5 ++ f 6 : Half).toNat ∧
      State.sameBlock { t with frmLen := s.frmLen }
        { s with
          resType := f 0, resSeq := f 1 ++ f 2 ++ f 3 ++ f 4, resLen := f 5 ++ f 6,
          resHcsum := f 7 ++ f 8 ++ f 9 ++ f 10,
          resCcsum := crc32 (sequenceOf f 11 (f 5 ++ f 6 : Half).toNat),
          crcOk := decide (f 7 ++ f 8 ++ f 9 ++ f 10 = crc32 (sequenceOf f 11 (f 5 ++ f 6 : Half).toNat)),
          typeKnown := decide (0x01 ≤ (f 0).toNat ∧ (f 0).toNat ≤ 0x06),
          err := 0#4, done := true, eng := .idle })

/-- MODEL'S CHOICE (log entry 7): a completion step that ENG does not enable changes nothing. -/
def Obligations.CompletionNotEnabledChangesNothing : Prop :=
  ∀ s : State,
    (s.eng ≠ .busy .encode → exec .cmdEncode s = .next s) ∧
    (s.eng ≠ .busy .decode → exec .cmdDecode s = .next s)

/-- The completion step (R121): both commands end with DONE set, ENG idle and one of the codes 0, 1, 2; with
a code other than 0 nothing but ERR, DONE, ENG (and the model's draw counter) changes. -/
def Obligations.CompletionSetsDoneAndFreesTheEngine : Prop :=
  ∀ (s : State) (c : Command), s.eng = .busy c → ∃ t, exec (completionOf c) s = .next t ∧
    t.done = true ∧ t.eng = .idle ∧ (t.err = 0#4 ∨ t.err = 1#4 ∨ t.err = 2#4) ∧
    (t.err ≠ 0#4 → State.sameBlock t { s with err := t.err, done := true, eng := .idle })

/-! ## Reset -/

/-- Reset (R230, R232): whatever ENG is, every register and field takes its reset value, ENG is idle, BUF is
unchanged; so STATUS and CRC_OUT read 0 and irq is 0. Nothing is said of the model's own fields. -/
def Obligations.ResetRestoresEveryRegisterButBuf : Prop :=
  ∀ (s : State) (rest : List Event), s.events = .reset :: rest → ∃ t, step s = .next t ∧
    State.sameBlock t
        { ie := false, done := false, ovr := false, err := 0#4, crcOk := false, typeKnown := false,
          txType := 0#8, txSeq := 0#32, txLen := 0#16, rxLen := 0#17, frmLen := 0#17, resType := 0#8,
          resSeq := 0#32, resLen := 0#16, resHcsum := 0#32, resCcsum := 0#32, crcAcc := 0xFFFFFFFF#32,
          buf := s.buf, eng := .idle, resp := none, draws := 0, events := [] } ∧
    readValue .status t = 0#32 ∧ readValue .crcOut t = 0#32 ∧ t.irq = false

/-- The state right after power-up and reset holds the reset column of R23: every register reads 0 but
CRC_ACC. No byte of BUF is written (R231). -/
def Obligations.ResetStateReadsTheResetColumn : Prop :=
  (∀ r : Reg, r ≠ .crcAcc → readValue r State.reset = 0#32) ∧
  readValue .crcAcc State.reset = 0xFFFFFFFF#32 ∧
  State.reset.eng = .idle ∧ State.reset.irq = false ∧
  ∀ i, Memory.read State.reset.buf i = none

/-! ## Steps -/

/-- A step runs the transaction the host presents: when its byte image decodes to the operation i, the step
is exec of i after the turn is taken off. The list of turns is the model's choice (log entry 1). -/
def Obligations.StepRunsThePresentedTransaction : Prop :=
  ∀ (s : State) (req : Request) (rest : List Event) (i : Instr),
    s.events = .host req :: rest → decode (presentedBytes (.inl req)) = .ok i →
    i.wellFormed = true ∧ step s = exec i { s with events := rest }

/-- A step runs the engine's completion when it is the engine's turn and ENG = BUSY(c), and the operation is
the one that c's command word decodes to (R72, R121). Whose turn it is is the model's choice (log entries
1 and 2). -/
def Obligations.StepRunsTheEnginesCompletion : Prop :=
  ∀ (s : State) (c : Command), s.eng = .busy c → s.engineTurn →
    decode (presentedBytes (.inr (commandWord c))) = .ok (completionOf c) ∧
    step s = exec (completionOf c) { s with events := s.events.tail }

/-- A table row's word placed by withFetchWord is what the next step runs, from any state; for a command the
engine then holds it. MODEL'S CHOICE (log entry 9). -/
def Obligations.PlacedTableWordRunsNext : Prop :=
  ∀ (s : State) (nbits w : Nat) (i : Instr), decodeTableWord nbits w = some i →
    (∀ c, i = completionOf c → step (s.withFetchWord nbits w) = exec i { s with eng := .busy c }) ∧
    ((∀ c, i ≠ completionOf c) → step (s.withFetchWord nbits w) = exec i s)

/-- Every state has a next state: no transaction, no completion step and no reset stops the machine
(R52: "A model refuses nothing at this level"). -/
def Obligations.EveryStepAnswersANextState : Prop :=
  ∀ s : State, ∃ t, step s = .next t

/-! ## Encodings -/

/-- Decoding the byte image of a well-formed operation gives it back, with every operand. That the image is
bytes, bits 7:0 first, is the model's choice (log entry 8). -/
def Obligations.DecodeOfEncodeIsTheOperation : Prop :=
  ∀ i : Instr, i.wellFormed = true → decode (encode i) = .ok i

/-- Every transaction and every command word decodes to one well-formed operation, and the encoder gives that
transaction or word back: no two operations share one, and nothing is refused (R52, R70, R72). -/
def Obligations.EveryPresentedWordHasOneMeaning : Prop :=
  ∀ x : Request ⊕ Word, (decodePresented x).wellFormed = true ∧ operationOf (decodePresented x) = x

/-- The bus decode (R52): an aligned 4-byte access to 0x00000 to 0x0003F is the access of the register there,
a 1-byte access to 0x10000 to 0x20009 is the access of BUF[addr - 0x10000], and anything else is BusError. -/
def Obligations.BusDecodeHasThreeCases : Prop :=
  (∀ a : BusAddr, a.toNat ≤ 0x3F → a.toNat % 4 = 0 → ∃ r, Config.offset r = a ∧
    decodeRequest (.read .four a) = readOp r ∧ ∀ w, decodeRequest (.write .four a w) = writeOp r w) ∧
  (∀ a : BusAddr, 0x10000 ≤ a.toNat → a.toNat ≤ 0x20009 → ∃ i : Count, i.toNat = a.toNat - 0x10000 ∧
    decodeRequest (.read .one a) = .rdBuf i ∧ ∀ w, decodeRequest (.write .one a w) = .wrBuf i w) ∧
  (∀ (a : BusAddr) (size : Size), ¬(size = .four ∧ a.toNat ≤ 0x3F ∧ a.toNat % 4 = 0) →
    ¬(size = .one ∧ 0x10000 ≤ a.toNat ∧ a.toNat ≤ 0x20009) →
    decodeRequest (.read size a) = .busErr (.read size a) ∧
    ∀ w, decodeRequest (.write size a w) = .busErr (.write size a w))

/-- Words written out from the opcode table's match values decode to their operations. That a write's
descriptor without a data word (0x180008, 0x180034, 0x120009) is given a zero one is the model's choice (log
entry 8). -/
def Obligations.TableWordsDecode : Prop :=
  decodeTableWord 24 0x080000 = some .rdCtrl ∧
  decodeTableWord 24 0x180008 = some (.wrCmd 0#32) ∧
  decodeTableWord 24 0x08001C = some .rdFrmLen ∧
  decodeTableWord 24 0x180034 = some (.wrCrcAcc 0#32) ∧
  decodeTableWord 24 0x010000 = some (.rdBuf 0#17) ∧
  decodeTableWord 24 0x120009 = some (.wrBuf 65545#17 0#32) ∧
  decodeTableWord 24 0x080040 = some (.busErr (.read .four 0x40#18)) ∧
  decodeTableWord 32 0x00000001 = some .cmdEncode ∧
  decodeTableWord 32 0x00000002 = some .cmdDecode ∧
  decodeTableWord 32 0x00000011 = some (.cmdReserved 0x11#32)

/-- The header (R75, R76): decoding the 11 bytes that encoding produces returns the four fields, and encoding
the fields of any 11 bytes produces those bytes. -/
def Obligations.HeaderDecodingInvertsEncoding : Prop :=
  (∀ h : Header, (headerBytes h).length = 11 ∧
    ∀ f : Nat → Byte, (∀ k, k < 11 → (headerBytes h)[k]? = some (f k)) →
      fieldType f = h.type ∧ fieldSeq f = h.seq ∧ fieldLen f = h.len ∧ fieldCsum f = h.csum) ∧
  (∀ f : Nat → Byte,
    headerBytes ⟨fieldType f, fieldSeq f, fieldLen f, fieldCsum f⟩ = sequenceOf f 0 11)

/-- A type byte is known when it is one of the six codes (R74). -/
def Obligations.KnownTypesAreTheSixCodes : Prop :=
  ∀ t : Byte, typeIsKnown t = true ↔ ∃ m : MsgType, Config.typeCode m = t

/-! ## The CRC -/

/-- The check value of R100, and the CRC of the empty sequence (R102). -/
def Obligations.CrcCheckValues : Prop :=
  crc32 [0x31#8, 0x32#8, 0x33#8, 0x34#8, 0x35#8, 0x36#8, 0x37#8, 0x38#8, 0x39#8] = 0xCBF43926#32 ∧
  crc32 [] = 0x00000000#32

/-- The table-driven form (R101: "A table-driven or multi-byte implementation must give the same result"):
one byte shifts the register by 8 and adds the entry, indexed by its low byte and the input, of the table
of what the step makes of a zero register. -/
def Obligations.CrcStepHasATableForm : Prop :=
  ∀ (c : Word) (b : Byte), crcStep c b = (c >>> 8) ^^^ crcStep 0#32 (c.extractLsb' 0 8 ^^^ b)

/-- The incremental law and the CRC unit (R103): setting CRC_ACC to ~crc32(s1) and feeding the bytes of s2
leaves crc32(s1 ++ s2) in CRC_OUT, from any state and whatever ENG is, touching nothing else; s1 empty is
`crcinit`. -/
def Obligations.FeedingTheCrcUnitComputesCrc32 : Prop :=
  (∀ s1 s2 : List Byte, crc32 (s1 ++ s2) = ~~~((s2.foldl crcStep (s1.foldl crcStep 0xFFFFFFFF#32)))) ∧
  ∀ (s : State) (s1 s2 : List Byte), ∃ t,
    serve (hostWr .crcAcc (~~~(crc32 s1)) :: s2.map hostCrcb) s = .next t ∧
    readValue .crcOut t = crc32 (s1 ++ s2) ∧
    State.sameBlock { t with crcAcc := s.crcAcc } s

/-- crc32 detects every change of one byte, so every change of exactly one bit (R111). -/
def Obligations.CrcDetectsEveryOneByteChange : Prop :=
  ∀ (pre post : List Byte) (b b' : Byte), b ≠ b' → crc32 (pre ++ b :: post) ≠ crc32 (pre ++ b' :: post)

/-- crc32 detects every burst of 32 bits or fewer (R111): two sequences of one length that differ only within
32 consecutive bit positions have different CRCs. Bit j of byte i is position 8 i + j, the order in which
R101 processes the bits. -/
def Obligations.CrcDetectsEveryBurstOf32Bits : Prop :=
  ∀ (u v : List Byte) (p : Nat), u.length = v.length → u ≠ v →
    (∀ i j, j < 8 → (u.getD i 0#8).getLsbD j ≠ (v.getD i 0#8).getLsbD j →
      p ≤ 8 * i + j ∧ 8 * i + j < p + 32) →
    crc32 u ≠ crc32 v

/-! ## Whole-machine rules: statements about every step from every state, so for every order of the agents'
turns (log entries 1 and 2) -/

/-- The invariant holds right after reset. -/
def Obligations.InvariantHoldsAtReset : Prop := State.reset.Inv

/-- Every step keeps the invariant: BUF's canonical form, RX_LEN at most 65546, ERR at most 3, DONE and ERR
zero while a command is pending, TYPE_KNOWN in step with RES_TYPE, FRM_LEN = 11 + RES_LEN and CRC_OK in
step with the two checksums once a command has succeeded. -/
def Obligations.EveryStepKeepsTheInvariant : Prop :=
  ∀ s t : State, s.Inv → step s = .next t → t.Inv

/-- No read has a side effect (R57): a read of any register or buffer byte leaves the block's state, and but
for a buffer byte never written a second read is answered as the first. -/
def Obligations.ReadsHaveNoSideEffect : Prop :=
  ∀ (s : State) (size : Size) (a : BusAddr), ∃ t,
    exec (decodeRequest (.read size a)) s = .next t ∧
    { t with resp := s.resp, draws := s.draws } = s ∧
    ((∀ i, decodeRequest (.read size a) = .rdBuf i → Memory.read s.buf i.toNat ≠ none) →
      exec (decodeRequest (.read size a)) t = .next t)

/-- Operands are frozen while a command is pending (R64): no host transaction changes the argument registers,
BUF, ENG, ERR or any result, and none sets DONE. -/
def Obligations.PendingCommandKeepsItsOperands : Prop :=
  ∀ (s : State) (req : Request), s.eng ≠ .idle → ∃ t,
    exec (decodeRequest req) s = .next t ∧
    s.sameArguments t ∧ s.sameResults t ∧ t.eng = s.eng ∧ t.err = s.err ∧ (t.done = true → s.done = true)

/-- OVR is set by a dropped write and by no other event (R27, R240): after a step from OVR = 0 it is 1 exactly
when the step was a host write to argument state with the engine busy. -/
def Obligations.OvrIsSetByADroppedWriteOnly : Prop :=
  ∀ s t : State, step s = .next t → s.ovr = false →
    (t.ovr = true ↔ s.eng ≠ .idle ∧ ∃ req, s.hostTurn req ∧ writesArgument (decodeRequest req) = true)

/-- OVR is cleared only by reset or by a host write of STATUS with bit 2 set (R27). -/
def Obligations.OvrIsClearedByStatusWriteOrReset : Prop :=
  ∀ s t : State, step s = .next t → s.ovr = true →
    (t.ovr = false ↔ s.resetTurn ∨
      ∃ req w, s.hostTurn req ∧ decodeRequest req = .wrStatus w ∧ w.getLsbD 2 = true)

/-- DONE is set by a completion step and by a reserved command word while idle, and by nothing else (R26). -/
def Obligations.DoneIsSetByCompletionOrBadCmd : Prop :=
  ∀ s t : State, step s = .next t → s.done = false →
    (t.done = true ↔ (∃ c, s.eng = .busy c ∧ s.engineTurn) ∨
      (s.eng = .idle ∧ ∃ req w, s.hostTurn req ∧ decodeRequest req = .wrCmd w ∧ w ≠ 1#32 ∧ w ≠ 2#32))

/-- DONE is cleared by an accepted command, by a STATUS write with bit 1 set, by reset, and by nothing else (R26). -/
def Obligations.DoneIsClearedByAcceptanceStatusWriteOrReset : Prop :=
  ∀ s t : State, step s = .next t → s.done = true →
    (t.done = false ↔ s.resetTurn ∨
      (∃ req w, s.hostTurn req ∧ decodeRequest req = .wrStatus w ∧ w.getLsbD 1 = true) ∨
      (s.eng = .idle ∧ ∃ req w, s.hostTurn req ∧ decodeRequest req = .wrCmd w ∧ (w = 1#32 ∨ w = 2#32)))

/-- irq rises only when a command completes or a reserved word ends with IE = 1, or when IE is set while
DONE = 1 (R208: dropped writes and bus errors raise no interrupt). -/
def Obligations.IrqRisesOnCompletionBadCmdOrEnable : Prop :=
  ∀ s t : State, step s = .next t → s.irq = false → t.irq = true →
    (s.ie = true ∧ ∃ c, s.eng = .busy c ∧ s.engineTurn) ∨
    (s.ie = true ∧ s.eng = .idle ∧
      ∃ req w, s.hostTurn req ∧ decodeRequest req = .wrCmd w ∧ w ≠ 1#32 ∧ w ≠ 2#32) ∨
    (s.done = true ∧ ∃ req w, s.hostTurn req ∧ decodeRequest req = .wrCtrl w ∧ w.getLsbD 0 = true)

/-- The result registers, CRC_OK and TYPE_KNOWN are written only by a successful ENCODE or DECODE, and by
reset (R29, R30, R37 to R42). -/
def Obligations.ResultsChangeOnlyOnSuccessOrReset : Prop :=
  ∀ s t : State, step s = .next t →
    s.sameResults t ∨ s.resetTurn ∨
      (s.engineTurn ∧ t.err = 0#4 ∧ (s.eng = .busy .encode ∨ (s.eng = .busy .decode ∧ 11 ≤ s.rxLen.toNat)))

/-- A byte of BUF changes only by the host's buffer write to it while idle, or by ENCODE's header (R46, R66). -/
def Obligations.BufChangesOnlyByWriteOrEncode : Prop :=
  ∀ (s t : State) (j : Nat), step s = .next t → Memory.read t.buf j ≠ Memory.read s.buf j →
    (s.eng = .idle ∧ ∃ req i w, s.hostTurn req ∧ decodeRequest req = .wrBuf i w ∧ i.toNat = j) ∨
    (s.eng = .busy .encode ∧ s.engineTurn ∧ j < 11)

/-- The engine's accesses (R66, R110): a completion step leaves CRC_ACC, CTRL, OVR, the argument registers and
the response (log entry 4, the model's choice); DECODE leaves BUF, ENCODE every byte from 11 on. -/
def Obligations.EngineLeavesCrcCtrlOvrAndArguments : Prop :=
  ∀ (s : State) (c : Command), s.eng = .busy c → ∃ t, exec (completionOf c) s = .next t ∧
    t.crcAcc = s.crcAcc ∧ t.ie = s.ie ∧ t.ovr = s.ovr ∧ t.txType = s.txType ∧ t.txSeq = s.txSeq ∧
    t.txLen = s.txLen ∧ t.rxLen = s.rxLen ∧ t.resp = s.resp ∧ t.events = s.events ∧
    (c = .decode → t.buf = s.buf) ∧ (∀ j, 11 ≤ j → Memory.read t.buf j = Memory.read s.buf j)

/-- ENCODE reads only its payload (R122, R66): two states that differ in BUF alone and agree on
BUF[11 .. 11+L) get the same header, results and flags. A payload byte that is written in neither state is
drawn alike in both runs: that is the model's choice (log entry 3, R231), and no claim about the hardware. -/
def Obligations.EncodeDependsOnItsPayloadAlone : Prop :=
  ∀ (s : State) (m : Memory), s.eng = .busy .encode →
    (∀ k, k < s.txLen.toNat → Memory.read s.buf (11 + k) = Memory.read m (11 + k)) →
    ∃ t t', exec .cmdEncode s = .next t ∧ exec .cmdEncode { s with buf := m } = .next t' ∧
      { t' with buf := t.buf } = t ∧ ∀ j, j < 11 → Memory.read t'.buf j = Memory.read t.buf j

/-- DECODE's bounds (R125), as what its outcome depends on: two states that differ in BUF alone end alike when
RX_LEN < 11; or when their BUF[5] and BUF[6] are written and equal and the declared length is too large; or
when moreover they agree on BUF[0 .. 11+L). In the third case a byte that is written in neither state is drawn
alike in both runs: that is the model's choice (log entry 3, R231), and no claim about the hardware. -/
def Obligations.DecodeDependsOnTheFrameAlone : Prop :=
  ∀ (s : State) (m : Memory), s.eng = .busy .decode →
    (s.rxLen.toNat < 11 ∨
      ∃ b5 b6 : Byte, Memory.read s.buf 5 = some b5 ∧ Memory.read m 5 = some b5 ∧
        Memory.read s.buf 6 = some b6 ∧ Memory.read m 6 = some b6 ∧
        ((b5 ++ b6 : Half).toNat > s.rxLen.toNat - 11 ∨
          ∀ j, j < 11 + (b5 ++ b6 : Half).toNat → Memory.read s.buf j = Memory.read m j)) →
    ∃ t, exec .cmdDecode s = .next t ∧ exec .cmdDecode { s with buf := m } = .next { t with buf := m }

/-- The engine is left only by its completion or by reset (R61, R47), so a STATUS read that returns BUSY = 0
after an acceptance has the completion behind it. -/
def Obligations.BusyIsLeftByCompletionOrReset : Prop :=
  ∀ (s t : State) (c : Command), s.eng = .busy c → step s = .next t → t.eng ≠ .busy c →
    t.eng = .idle ∧ (s.resetTurn ∨
      (s.engineTurn ∧ t.done = true ∧ step s = exec (completionOf c) { s with events := s.events.tail }))

/-- Every accepted command completes (R5, R242): a busy engine is idle after at most one step more than there
are turns to come, with DONE set unless a reset was among them. The bound is the model's choice (log entry 2):
the spec gives none. -/
def Obligations.BusyEngineBecomesIdle : Prop :=
  ∀ (s : State) (c : Command), s.eng = .busy c → ∃ (k : Nat) (t : State),
    k ≤ s.events.length + 1 ∧ s.runs k t ∧ t.eng = .idle ∧
    (t.done = true ∨ Event.reset ∈ s.events.take k)

/-! ## The codec -/

/-- ENCODE is the source's encode (R2, R122): after it BUF[0 .. FRM_LEN) is encode(TX_TYPE, TX_SEQ, payload). -/
def Obligations.EncodeRefinesTheCodec : Prop :=
  ∀ (s : State) (p : List Byte), s.eng = .busy .encode → p.length = s.txLen.toNat →
    (∀ k, k < p.length → Memory.read s.buf (11 + k) = p[k]?) →
    ∃ t, exec .cmdEncode s = .next t ∧ t.err = 0#4 ∧
      t.frmLen.toNat = (codecEncode s.txType s.txSeq p).length ∧
      ∀ j, j < t.frmLen.toNat → Memory.read t.buf j = (codecEncode s.txType s.txSeq p)[j]?

/-- DECODE is the source's decode, oversized datagrams included (R123, R127): with the first
min(|D|, 65546) bytes of a datagram D in BUF and RX_LEN written |D|, DECODE gives the outcome and the fields
of decode(D), with the payload in place. -/
def Obligations.DecodeRefinesTheCodec : Prop :=
  ∀ (s : State) (D : List Byte), s.eng = .busy .decode → s.rxLen.toNat = min D.length 65546 →
    (∀ j, j < min D.length 65546 → Memory.read s.buf j = D[j]?) →
    ∃ t, exec .cmdDecode s = .next t ∧ t.buf = s.buf ∧
      match codecDecode D with
      | .error .tooShort => t.err = 1#4 ∧ s.sameResults t
      | .error .truncatedPayload => t.err = 2#4 ∧ s.sameResults t
      | .ok (h, p) =>
        t.err = 0#4 ∧ t.resType = h.type ∧ t.resSeq = h.seq ∧ t.resLen = h.len ∧ t.resHcsum = h.csum ∧
        t.resCcsum = crc32 p ∧ t.crcOk = decide (h.csum = crc32 p) ∧ p.length = h.len.toNat ∧
        t.frmLen.toNat = 11 + p.length ∧ ∀ k, k < p.length → Memory.read t.buf (11 + k) = p[k]?

/-- Round trip (R126): ENCODE to completion, RX_LEN <- 11 + L, DECODE to completion, with no BUF write in
between, from any idle state whose payload bytes are written. -/
def Obligations.DecodeAfterEncodeReturnsTheFrame : Prop :=
  ∀ (s : State) (p : List Byte), s.eng = .idle → p.length = s.txLen.toNat →
    (∀ k, k < p.length → Memory.read s.buf (11 + k) = p[k]?) →
    ∃ a b c d t : State,
      exec (.wrCmd 1#32) s = .next a ∧ exec .cmdEncode a = .next b ∧
      exec (.wrRxLen (BitVec.ofNat 32 (11 + p.length))) b = .next c ∧
      exec (.wrCmd 2#32) c = .next d ∧ exec .cmdDecode d = .next t ∧
      t.err = 0#4 ∧ t.resType = s.txType ∧ t.resSeq = s.txSeq ∧ t.resLen.toNat = p.length ∧
      t.resHcsum = crc32 p ∧ t.resCcsum = crc32 p ∧ t.crcOk = true ∧
      t.typeKnown = decide (0x01 ≤ s.txType.toNat ∧ s.txType.toNat ≤ 0x06) ∧
      t.frmLen.toNat = 11 + p.length ∧ ∀ k, k < p.length → Memory.read t.buf (11 + k) = p[k]?

/-- Round trip on every schedule (R126): between ENCODE's acceptance, its completion, RX_LEN <- 11 + L, DECODE's
acceptance and its completion the host may do any transactions that write no argument state (polls among them),
in any number, and the engine may complete at any of the turns it is given. The list of turns is the model's
choice (log entry 1). -/
def Obligations.DecodeAfterEncodeOnEverySchedule : Prop :=
  ∀ (s : State) (p : List Byte) (first second third : List Event), s.eng = .idle → p.length = s.txLen.toNat →
    (∀ k, k < p.length → Memory.read s.buf (11 + k) = p[k]?) →
    (∀ e, e ∈ first ++ second ++ third → e.quiet) → .engine ∈ first → .engine ∈ third →
    s.events = .host (hostCmd .encode) :: first ++
      .host (hostWr .rxLen (BitVec.ofNat 32 (11 + p.length))) :: second ++ .host (hostCmd .decode) :: third →
    ∃ t : State, s.runs s.events.length t ∧ t.eng = .idle ∧
      t.err = 0#4 ∧ t.resType = s.txType ∧ t.resSeq = s.txSeq ∧ t.resLen.toNat = p.length ∧
      t.resHcsum = crc32 p ∧ t.resCcsum = crc32 p ∧ t.crcOk = true ∧
      t.typeKnown = decide (0x01 ≤ s.txType.toNat ∧ s.txType.toNat ≤ 0x06) ∧
      t.frmLen.toNat = 11 + p.length ∧ ∀ k, k < p.length → Memory.read t.buf (11 + k) = p[k]?
end

