-- ==== Sys2Proof/Laws/Crc.lean ====
section
/-!
SUPPORT. The laws of the CRC register (R101 to R103).
-/
namespace Sys2Proof.Machine

@[simp] theorem crcFold_nil (c : Word) : crcFold c [] = c := rfl

@[simp] theorem crcFold_cons (c : Word) (b : Byte) (bs : List Byte) :
    crcFold c (b :: bs) = crcFold (crcStep c b) bs := rfl

theorem crcFold_append (c : Word) (s t : List Byte) :
    crcFold c (s ++ t) = crcFold (crcFold c s) t := by
  simp [crcFold, List.foldl_append]

end Sys2Proof.Machine
end

