-- ==== Sys2Proof/Laws/Encoding.lean ====
section
/-!
SUPPORT. The byte image of a transaction and of a command word is read back as it was written.
-/
namespace Sys2Proof

theorem wordOfBytes_wordBytes (w : Word) :
    wordOfBytes (w.extractLsb' 0 8) (w.extractLsb' 8 8) (w.extractLsb' 16 8) (w.extractLsb' 24 8) = w := by
  apply BitVec.eq_of_getLsbD_eq
  intro i hi
  simp only [wordOfBytes, BitVec.getLsbD_append, BitVec.getLsbD_extractLsb']
  repeat' split
  all_goals repeat rw [decide_eq_true (by omega)]
  all_goals simp only [Bool.true_and]
  all_goals (congr 1; omega)

theorem tripleOfBytes_low (d : Descriptor) :
    (tripleOfBytes (d.extractLsb' 0 8) (d.extractLsb' 8 8) ((d.extractLsb' 16 5).setWidth 8)).extractLsb' 0 21
      = d := by
  apply BitVec.eq_of_getLsbD_eq
  intro i hi
  simp only [tripleOfBytes, BitVec.getLsbD_append, BitVec.getLsbD_extractLsb', BitVec.getLsbD_setWidth]
  repeat' split
  all_goals repeat rw [decide_eq_true (by omega)]
  all_goals simp only [Bool.true_and]
  all_goals (congr 1; omega)

theorem tripleOfBytes_high (d : Descriptor) :
    (tripleOfBytes (d.extractLsb' 0 8) (d.extractLsb' 8 8) ((d.extractLsb' 16 5).setWidth 8)).extractLsb' 21 3
      = 0#3 := by
  apply BitVec.eq_of_getLsbD_eq
  intro i hi
  simp only [tripleOfBytes, BitVec.getLsbD_append, BitVec.getLsbD_extractLsb', BitVec.getLsbD_setWidth]
  repeat' split
  all_goals simp_all
  all_goals omega

theorem sizeOfCode_sizeCode (size : Size) : sizeOfCode (sizeCode size) = size := by
  cases size <;> rfl

theorem descriptor_w (b : BitVec 1) (c : BitVec 2) (a : BusAddr) :
    (b ++ c ++ a : Descriptor).getLsbD 20 = b.getLsbD 0 := by
  rw [BitVec.getLsbD_append, BitVec.getLsbD_append]
  rfl

theorem descriptor_sz (b : BitVec 1) (c : BitVec 2) (a : BusAddr) :
    (b ++ c ++ a : Descriptor).extractLsb' 18 2 = c := by
  apply BitVec.eq_of_getLsbD_eq
  intro i hi
  simp only [BitVec.getLsbD_append, BitVec.getLsbD_extractLsb']
  repeat' split
  all_goals simp_all
  all_goals omega

theorem descriptor_a (b : BitVec 1) (c : BitVec 2) (a : BusAddr) :
    (b ++ c ++ a : Descriptor).extractLsb' 0 18 = a := by
  apply BitVec.eq_of_getLsbD_eq
  intro i hi
  simp only [BitVec.getLsbD_append, BitVec.getLsbD_extractLsb']
  repeat' split
  all_goals simp_all

/-- A byte image presents what it was written for. -/
theorem presented_presentedBytes (x : Request ⊕ Word) : presented (presentedBytes x) = .ok x := by
  match x with
  | .inl (.read size a) =>
    simp only [presentedBytes, descriptorBytes, presented, requestOfTriple, tripleOfBytes_low,
      tripleOfBytes_high, if_true, requestOfDescriptor, descriptorOf, descriptor_w, descriptor_sz,
      descriptor_a, sizeOfCode_sizeCode]
    rfl
  | .inl (.write size a w) =>
    simp only [presentedBytes, descriptorBytes, wordBytes, presented, List.cons_append, List.nil_append,
      requestOfTriple, tripleOfBytes_low, tripleOfBytes_high, wordOfBytes_wordBytes, if_true,
      requestOfDescriptor, descriptorOf, descriptor_w, descriptor_sz, descriptor_a, sizeOfCode_sizeCode]
    rfl
  | .inr w =>
    simp only [presentedBytes, wordBytes, presented, wordOfBytes_wordBytes]

/-- Decoding a byte image is the bus decode or the command map of what it was written for. -/
theorem decode_presentedBytes (x : Request ⊕ Word) :
    decode (presentedBytes x) = .ok (decodePresented x) := by
  simp [decode, presented_presentedBytes, Except.map]

/-! ## The buffer window -/

theorem bufAddr_toNat (i : Count) : (bufAddr i).toNat = 0x10000 + i.toNat := by
  have := i.isLt
  simp only [bufAddr, BitVec.toNat_add, BitVec.toNat_setWidth, BitVec.toNat_ofNat]
  omega

theorem bufIndex_bufAddr {i : Count} (h : i.toNat < Config.frameCap) : bufIndex (bufAddr i) = some i := by
  simp only [Config.frameCap] at h
  simp only [bufIndex, bufAddr_toNat]
  rw [if_pos (by omega), Nat.add_sub_cancel_left, BitVec.ofNat_toNat, BitVec.setWidth_eq]

/-! ## The bus decode and R52's two cases -/

theorem bufIndex_isSome (a : BusAddr) : (bufIndex a).isSome = inBufWindow a := by
  unfold bufIndex inBufWindow
  split <;> simp_all

theorem regAt_isSome (a : BusAddr) : (regAt a).isSome = inRegWindow a := by
  have key : ∀ n, n < 64 → (regAt (BitVec.ofNat 18 n)).isSome = inRegWindow (BitVec.ofNat 18 n) := by
    decide
  by_cases h : a.toNat < 64
  · simpa using key a.toNat h
  · have h2 : inRegWindow a = false := by simp [inRegWindow]; omega
    rw [h2]
    unfold regAt
    split <;> simp_all

/-- A transaction that R52 does not admit is BUS_ERR. -/
theorem decodeRequest_of_not_admitted {req : Request} (h : req.admitted = false) :
    decodeRequest req = .busErr req := by
  cases req with
  | read size a =>
    cases size <;> simp only [Request.admitted, admits, ← regAt_isSome, ← bufIndex_isSome] at h <;>
      simp_all [decodeRequest]
  | write size a w =>
    cases size <;> simp only [Request.admitted, admits, ← regAt_isSome, ← bufIndex_isSome] at h <;>
      simp_all [decodeRequest]

end Sys2Proof
end

