-- ==== Sys2Proof/Laws/Memory.lean ====
section
/-!
SUPPORT. The laws of BUF as data: a read after a write, and the canonical form kept by every write.
-/
namespace Sys2Proof.Machine

theorem Memory.read_write_same (m : Memory) (i : Nat) (b : Byte) :
    Memory.read (Memory.write m i b) i = some b := by
  induction m with
  | nil => simp [Memory.write, Memory.read]
  | cons cell rest ih =>
    obtain ⟨j, c⟩ := cell
    unfold Memory.write
    split
    · simp [Memory.read]
    · split
      · simp [Memory.read]
      · simp_all [Memory.read]

theorem Memory.read_write_other (m : Memory) {i j : Nat} (b : Byte) (h : j ≠ i) :
    Memory.read (Memory.write m i b) j = Memory.read m j := by
  induction m with
  | nil => simp [Memory.write, Memory.read, h]
  | cons cell rest ih =>
    obtain ⟨k, c⟩ := cell
    unfold Memory.write
    split
    · simp [Memory.read, h]
    · split
      · next hk => subst hk; simp [Memory.read, h]
      · simp [Memory.read, ih]

theorem Memory.risingFrom_mono {m : Memory} {lo lo' : Nat} (h : Memory.risingFrom lo m = true)
    (hle : lo' ≤ lo) : Memory.risingFrom lo' m = true := by
  cases m with
  | nil => rfl
  | cons cell rest => simp_all [Memory.risingFrom]; omega

theorem Memory.risingFrom_write {m : Memory} {lo i : Nat} (b : Byte)
    (h : Memory.risingFrom lo m = true) (hi : lo ≤ i) :
    Memory.risingFrom lo (Memory.write m i b) = true := by
  induction m generalizing lo with
  | nil => simpa [Memory.write, Memory.risingFrom] using hi
  | cons cell rest ih =>
    obtain ⟨j, c⟩ := cell
    simp only [Memory.risingFrom, Bool.and_eq_true, decide_eq_true_eq] at h
    unfold Memory.write
    split
    · simp [Memory.risingFrom, hi, h.2]; omega
    · split
      · next hk => subst hk; simp [Memory.risingFrom, hi, h.2]
      · simp [Memory.risingFrom, h.1]; exact ih h.2 (by omega)

theorem Memory.all_below_write {m : Memory} {i n : Nat} (b : Byte)
    (h : m.all (fun cell => decide (cell.1 < n)) = true) (hi : i < n) :
    (Memory.write m i b).all (fun cell => decide (cell.1 < n)) = true := by
  induction m with
  | nil => simpa [Memory.write] using hi
  | cons cell rest ih =>
    obtain ⟨j, c⟩ := cell
    simp only [List.all_cons, Bool.and_eq_true] at h
    unfold Memory.write
    split
    · simp [hi, h.1, h.2] at *
    · split
      · simp [hi] at *; exact h.2
      · simp [ih h.2] at *; exact h.1

/-- A write inside BUF keeps the canonical form. -/
theorem Memory.write_keeps_wf {m : Memory} {i : Nat} (b : Byte) (h : Memory.wf m = true)
    (hi : i < Config.frameCap) : Memory.wf (Memory.write m i b) = true := by
  simp only [Memory.wf, Bool.and_eq_true] at *
  exact ⟨Memory.risingFrom_write b h.1 (Nat.zero_le i), Memory.all_below_write b h.2 hi⟩

theorem Memory.writeBytes_keeps_wf {m : Memory} {start : Nat} (bytes : List Byte)
    (h : Memory.wf m = true) (hi : start + bytes.length ≤ Config.frameCap) :
    Memory.wf (Memory.writeBytes m start bytes) = true := by
  induction bytes generalizing m start with
  | nil => exact h
  | cons b rest ih =>
    simp only [List.length_cons] at hi
    exact ih (Memory.write_keeps_wf b h (by omega)) (by omega)

/-- `writeBytes` leaves every byte outside its range. -/
theorem Memory.read_writeBytes_outside {m : Memory} {start j : Nat} (bytes : List Byte)
    (h : j < start ∨ start + bytes.length ≤ j) :
    Memory.read (Memory.writeBytes m start bytes) j = Memory.read m j := by
  induction bytes generalizing m start with
  | nil => rfl
  | cons b rest ih =>
    simp only [List.length_cons] at h
    rw [Memory.writeBytes, ih (by omega), Memory.read_write_other _ _ (by omega)]

/-- `writeBytes` writes its k-th byte at start + k. -/
theorem Memory.read_writeBytes_inside {m : Memory} {start k : Nat} {bytes : List Byte}
    (h : k < bytes.length) :
    Memory.read (Memory.writeBytes m start bytes) (start + k) = bytes[k]? := by
  induction bytes generalizing m start k with
  | nil => simp at h
  | cons b rest ih =>
    rw [Memory.writeBytes]
    cases k with
    | zero =>
      rw [Memory.read_writeBytes_outside rest (by omega)]
      simpa using Memory.read_write_same m start b
    | succ n =>
      have := @ih (Memory.write m start b) (start + 1) n (by simpa using h)
      simpa [Nat.add_assoc, Nat.add_comm 1 n] using this

/-- A read inside BUF's canonical form finds only indices inside BUF. -/
theorem Memory.read_below {m : Memory} {i n : Nat} {b : Byte}
    (h : m.all (fun cell => decide (cell.1 < n)) = true) (hr : Memory.read m i = some b) : i < n := by
  induction m with
  | nil => simp [Memory.read] at hr
  | cons cell rest ih =>
    obtain ⟨j, c⟩ := cell
    simp only [List.all_cons, Bool.and_eq_true, decide_eq_true_eq] at h
    unfold Memory.read at hr
    split at hr
    · next he => subst he; exact h.1
    · exact ih h.2 hr

end Sys2Proof.Machine
end

