-- ==== Sys2Proof/Laws/State.lean ====
section
/-!
SUPPORT. One lemma for each field and each shared update, so that no proof unfolds a record update.
-/
namespace Sys2Proof.Machine

variable (s : State)

/-! ## answerRead -/

@[simp] theorem answerRead_ie (v : Word) : (answerRead v s).ie = s.ie := rfl
@[simp] theorem answerRead_done (v : Word) : (answerRead v s).done = s.done := rfl
@[simp] theorem answerRead_ovr (v : Word) : (answerRead v s).ovr = s.ovr := rfl
@[simp] theorem answerRead_err (v : Word) : (answerRead v s).err = s.err := rfl
@[simp] theorem answerRead_crcOk (v : Word) : (answerRead v s).crcOk = s.crcOk := rfl
@[simp] theorem answerRead_typeKnown (v : Word) : (answerRead v s).typeKnown = s.typeKnown := rfl
@[simp] theorem answerRead_txType (v : Word) : (answerRead v s).txType = s.txType := rfl
@[simp] theorem answerRead_txSeq (v : Word) : (answerRead v s).txSeq = s.txSeq := rfl
@[simp] theorem answerRead_txLen (v : Word) : (answerRead v s).txLen = s.txLen := rfl
@[simp] theorem answerRead_rxLen (v : Word) : (answerRead v s).rxLen = s.rxLen := rfl
@[simp] theorem answerRead_frmLen (v : Word) : (answerRead v s).frmLen = s.frmLen := rfl
@[simp] theorem answerRead_resType (v : Word) : (answerRead v s).resType = s.resType := rfl
@[simp] theorem answerRead_resSeq (v : Word) : (answerRead v s).resSeq = s.resSeq := rfl
@[simp] theorem answerRead_resLen (v : Word) : (answerRead v s).resLen = s.resLen := rfl
@[simp] theorem answerRead_resHcsum (v : Word) : (answerRead v s).resHcsum = s.resHcsum := rfl
@[simp] theorem answerRead_resCcsum (v : Word) : (answerRead v s).resCcsum = s.resCcsum := rfl
@[simp] theorem answerRead_crcAcc (v : Word) : (answerRead v s).crcAcc = s.crcAcc := rfl
@[simp] theorem answerRead_buf (v : Word) : (answerRead v s).buf = s.buf := rfl
@[simp] theorem answerRead_eng (v : Word) : (answerRead v s).eng = s.eng := rfl
@[simp] theorem answerRead_resp (v : Word) : (answerRead v s).resp = some ⟨v, .ok⟩ := rfl
@[simp] theorem answerRead_draws (v : Word) : (answerRead v s).draws = s.draws := rfl
@[simp] theorem answerRead_events (v : Word) : (answerRead v s).events = s.events := rfl

/-! ## answerWrite -/

@[simp] theorem answerWrite_ie : (answerWrite s).ie = s.ie := rfl
@[simp] theorem answerWrite_done : (answerWrite s).done = s.done := rfl
@[simp] theorem answerWrite_ovr : (answerWrite s).ovr = s.ovr := rfl
@[simp] theorem answerWrite_err : (answerWrite s).err = s.err := rfl
@[simp] theorem answerWrite_crcOk : (answerWrite s).crcOk = s.crcOk := rfl
@[simp] theorem answerWrite_typeKnown : (answerWrite s).typeKnown = s.typeKnown := rfl
@[simp] theorem answerWrite_txType : (answerWrite s).txType = s.txType := rfl
@[simp] theorem answerWrite_txSeq : (answerWrite s).txSeq = s.txSeq := rfl
@[simp] theorem answerWrite_txLen : (answerWrite s).txLen = s.txLen := rfl
@[simp] theorem answerWrite_rxLen : (answerWrite s).rxLen = s.rxLen := rfl
@[simp] theorem answerWrite_frmLen : (answerWrite s).frmLen = s.frmLen := rfl
@[simp] theorem answerWrite_resType : (answerWrite s).resType = s.resType := rfl
@[simp] theorem answerWrite_resSeq : (answerWrite s).resSeq = s.resSeq := rfl
@[simp] theorem answerWrite_resLen : (answerWrite s).resLen = s.resLen := rfl
@[simp] theorem answerWrite_resHcsum : (answerWrite s).resHcsum = s.resHcsum := rfl
@[simp] theorem answerWrite_resCcsum : (answerWrite s).resCcsum = s.resCcsum := rfl
@[simp] theorem answerWrite_crcAcc : (answerWrite s).crcAcc = s.crcAcc := rfl
@[simp] theorem answerWrite_buf : (answerWrite s).buf = s.buf := rfl
@[simp] theorem answerWrite_eng : (answerWrite s).eng = s.eng := rfl
@[simp] theorem answerWrite_resp : (answerWrite s).resp = some ⟨Config.freeRdata s.draws, .ok⟩ := rfl
@[simp] theorem answerWrite_draws : (answerWrite s).draws = s.draws + 1 := rfl
@[simp] theorem answerWrite_events : (answerWrite s).events = s.events := rfl

/-! ## dropWrite -/

@[simp] theorem dropWrite_ie : (dropWrite s).ie = s.ie := rfl
@[simp] theorem dropWrite_done : (dropWrite s).done = s.done := rfl
@[simp] theorem dropWrite_ovr : (dropWrite s).ovr = true := rfl
@[simp] theorem dropWrite_err : (dropWrite s).err = s.err := rfl
@[simp] theorem dropWrite_crcOk : (dropWrite s).crcOk = s.crcOk := rfl
@[simp] theorem dropWrite_typeKnown : (dropWrite s).typeKnown = s.typeKnown := rfl
@[simp] theorem dropWrite_txType : (dropWrite s).txType = s.txType := rfl
@[simp] theorem dropWrite_txSeq : (dropWrite s).txSeq = s.txSeq := rfl
@[simp] theorem dropWrite_txLen : (dropWrite s).txLen = s.txLen := rfl
@[simp] theorem dropWrite_rxLen : (dropWrite s).rxLen = s.rxLen := rfl
@[simp] theorem dropWrite_frmLen : (dropWrite s).frmLen = s.frmLen := rfl
@[simp] theorem dropWrite_resType : (dropWrite s).resType = s.resType := rfl
@[simp] theorem dropWrite_resSeq : (dropWrite s).resSeq = s.resSeq := rfl
@[simp] theorem dropWrite_resLen : (dropWrite s).resLen = s.resLen := rfl
@[simp] theorem dropWrite_resHcsum : (dropWrite s).resHcsum = s.resHcsum := rfl
@[simp] theorem dropWrite_resCcsum : (dropWrite s).resCcsum = s.resCcsum := rfl
@[simp] theorem dropWrite_crcAcc : (dropWrite s).crcAcc = s.crcAcc := rfl
@[simp] theorem dropWrite_buf : (dropWrite s).buf = s.buf := rfl
@[simp] theorem dropWrite_eng : (dropWrite s).eng = s.eng := rfl
@[simp] theorem dropWrite_resp : (dropWrite s).resp = s.resp := rfl
@[simp] theorem dropWrite_draws : (dropWrite s).draws = s.draws := rfl
@[simp] theorem dropWrite_events : (dropWrite s).events = s.events := rfl

/-! ## acceptCommand -/

@[simp] theorem acceptCommand_ie (c : Command) : (acceptCommand c s).ie = s.ie := rfl
@[simp] theorem acceptCommand_done (c : Command) : (acceptCommand c s).done = false := rfl
@[simp] theorem acceptCommand_ovr (c : Command) : (acceptCommand c s).ovr = s.ovr := rfl
@[simp] theorem acceptCommand_err (c : Command) : (acceptCommand c s).err = 0#4 := rfl
@[simp] theorem acceptCommand_crcOk (c : Command) : (acceptCommand c s).crcOk = s.crcOk := rfl
@[simp] theorem acceptCommand_typeKnown (c : Command) : (acceptCommand c s).typeKnown = s.typeKnown := rfl
@[simp] theorem acceptCommand_txType (c : Command) : (acceptCommand c s).txType = s.txType := rfl
@[simp] theorem acceptCommand_txSeq (c : Command) : (acceptCommand c s).txSeq = s.txSeq := rfl
@[simp] theorem acceptCommand_txLen (c : Command) : (acceptCommand c s).txLen = s.txLen := rfl
@[simp] theorem acceptCommand_rxLen (c : Command) : (acceptCommand c s).rxLen = s.rxLen := rfl
@[simp] theorem acceptCommand_frmLen (c : Command) : (acceptCommand c s).frmLen = s.frmLen := rfl
@[simp] theorem acceptCommand_resType (c : Command) : (acceptCommand c s).resType = s.resType := rfl
@[simp] theorem acceptCommand_resSeq (c : Command) : (acceptCommand c s).resSeq = s.resSeq := rfl
@[simp] theorem acceptCommand_resLen (c : Command) : (acceptCommand c s).resLen = s.resLen := rfl
@[simp] theorem acceptCommand_resHcsum (c : Command) : (acceptCommand c s).resHcsum = s.resHcsum := rfl
@[simp] theorem acceptCommand_resCcsum (c : Command) : (acceptCommand c s).resCcsum = s.resCcsum := rfl
@[simp] theorem acceptCommand_crcAcc (c : Command) : (acceptCommand c s).crcAcc = s.crcAcc := rfl
@[simp] theorem acceptCommand_buf (c : Command) : (acceptCommand c s).buf = s.buf := rfl
@[simp] theorem acceptCommand_eng (c : Command) : (acceptCommand c s).eng = .busy c := rfl
@[simp] theorem acceptCommand_resp (c : Command) : (acceptCommand c s).resp = s.resp := rfl
@[simp] theorem acceptCommand_draws (c : Command) : (acceptCommand c s).draws = s.draws := rfl
@[simp] theorem acceptCommand_events (c : Command) : (acceptCommand c s).events = s.events := rfl

/-! ## endCommand -/

@[simp] theorem endCommand_ie (code : BitVec 4) : (endCommand code s).ie = s.ie := rfl
@[simp] theorem endCommand_done (code : BitVec 4) : (endCommand code s).done = true := rfl
@[simp] theorem endCommand_ovr (code : BitVec 4) : (endCommand code s).ovr = s.ovr := rfl
@[simp] theorem endCommand_err (code : BitVec 4) : (endCommand code s).err = code := rfl
@[simp] theorem endCommand_crcOk (code : BitVec 4) : (endCommand code s).crcOk = s.crcOk := rfl
@[simp] theorem endCommand_typeKnown (code : BitVec 4) : (endCommand code s).typeKnown = s.typeKnown := rfl
@[simp] theorem endCommand_txType (code : BitVec 4) : (endCommand code s).txType = s.txType := rfl
@[simp] theorem endCommand_txSeq (code : BitVec 4) : (endCommand code s).txSeq = s.txSeq := rfl
@[simp] theorem endCommand_txLen (code : BitVec 4) : (endCommand code s).txLen = s.txLen := rfl
@[simp] theorem endCommand_rxLen (code : BitVec 4) : (endCommand code s).rxLen = s.rxLen := rfl
@[simp] theorem endCommand_frmLen (code : BitVec 4) : (endCommand code s).frmLen = s.frmLen := rfl
@[simp] theorem endCommand_resType (code : BitVec 4) : (endCommand code s).resType = s.resType := rfl
@[simp] theorem endCommand_resSeq (code : BitVec 4) : (endCommand code s).resSeq = s.resSeq := rfl
@[simp] theorem endCommand_resLen (code : BitVec 4) : (endCommand code s).resLen = s.resLen := rfl
@[simp] theorem endCommand_resHcsum (code : BitVec 4) : (endCommand code s).resHcsum = s.resHcsum := rfl
@[simp] theorem endCommand_resCcsum (code : BitVec 4) : (endCommand code s).resCcsum = s.resCcsum := rfl
@[simp] theorem endCommand_crcAcc (code : BitVec 4) : (endCommand code s).crcAcc = s.crcAcc := rfl
@[simp] theorem endCommand_buf (code : BitVec 4) : (endCommand code s).buf = s.buf := rfl
@[simp] theorem endCommand_eng (code : BitVec 4) : (endCommand code s).eng = s.eng := rfl
@[simp] theorem endCommand_resp (code : BitVec 4) : (endCommand code s).resp = s.resp := rfl
@[simp] theorem endCommand_draws (code : BitVec 4) : (endCommand code s).draws = s.draws := rfl
@[simp] theorem endCommand_events (code : BitVec 4) : (endCommand code s).events = s.events := rfl

/-! ## finishCommand -/

@[simp] theorem finishCommand_ie (code : BitVec 4) : (finishCommand code s).ie = s.ie := rfl
@[simp] theorem finishCommand_done (code : BitVec 4) : (finishCommand code s).done = true := rfl
@[simp] theorem finishCommand_ovr (code : BitVec 4) : (finishCommand code s).ovr = s.ovr := rfl
@[simp] theorem finishCommand_err (code : BitVec 4) : (finishCommand code s).err = code := rfl
@[simp] theorem finishCommand_crcOk (code : BitVec 4) : (finishCommand code s).crcOk = s.crcOk := rfl
@[simp] theorem finishCommand_typeKnown (code : BitVec 4) : (finishCommand code s).typeKnown = s.typeKnown := rfl
@[simp] theorem finishCommand_txType (code : BitVec 4) : (finishCommand code s).txType = s.txType := rfl
@[simp] theorem finishCommand_txSeq (code : BitVec 4) : (finishCommand code s).txSeq = s.txSeq := rfl
@[simp] theorem finishCommand_txLen (code : BitVec 4) : (finishCommand code s).txLen = s.txLen := rfl
@[simp] theorem finishCommand_rxLen (code : BitVec 4) : (finishCommand code s).rxLen = s.rxLen := rfl
@[simp] theorem finishCommand_frmLen (code : BitVec 4) : (finishCommand code s).frmLen = s.frmLen := rfl
@[simp] theorem finishCommand_resType (code : BitVec 4) : (finishCommand code s).resType = s.resType := rfl
@[simp] theorem finishCommand_resSeq (code : BitVec 4) : (finishCommand code s).resSeq = s.resSeq := rfl
@[simp] theorem finishCommand_resLen (code : BitVec 4) : (finishCommand code s).resLen = s.resLen := rfl
@[simp] theorem finishCommand_resHcsum (code : BitVec 4) : (finishCommand code s).resHcsum = s.resHcsum := rfl
@[simp] theorem finishCommand_resCcsum (code : BitVec 4) : (finishCommand code s).resCcsum = s.resCcsum := rfl
@[simp] theorem finishCommand_crcAcc (code : BitVec 4) : (finishCommand code s).crcAcc = s.crcAcc := rfl
@[simp] theorem finishCommand_buf (code : BitVec 4) : (finishCommand code s).buf = s.buf := rfl
@[simp] theorem finishCommand_eng (code : BitVec 4) : (finishCommand code s).eng = .idle := rfl
@[simp] theorem finishCommand_resp (code : BitVec 4) : (finishCommand code s).resp = s.resp := rfl
@[simp] theorem finishCommand_draws (code : BitVec 4) : (finishCommand code s).draws = s.draws := rfl
@[simp] theorem finishCommand_events (code : BitVec 4) : (finishCommand code s).events = s.events := rfl

/-! ## commitResults -/

@[simp] theorem commitResults_ie (h : Header) (k : Word) : (commitResults h k s).ie = s.ie := rfl
@[simp] theorem commitResults_done (h : Header) (k : Word) : (commitResults h k s).done = s.done := rfl
@[simp] theorem commitResults_ovr (h : Header) (k : Word) : (commitResults h k s).ovr = s.ovr := rfl
@[simp] theorem commitResults_err (h : Header) (k : Word) : (commitResults h k s).err = s.err := rfl
@[simp] theorem commitResults_crcOk (h : Header) (k : Word) : (commitResults h k s).crcOk = (h.csum == k) := rfl
@[simp] theorem commitResults_typeKnown (h : Header) (k : Word) : (commitResults h k s).typeKnown = typeIsKnown h.type := rfl
@[simp] theorem commitResults_txType (h : Header) (k : Word) : (commitResults h k s).txType = s.txType := rfl
@[simp] theorem commitResults_txSeq (h : Header) (k : Word) : (commitResults h k s).txSeq = s.txSeq := rfl
@[simp] theorem commitResults_txLen (h : Header) (k : Word) : (commitResults h k s).txLen = s.txLen := rfl
@[simp] theorem commitResults_rxLen (h : Header) (k : Word) : (commitResults h k s).rxLen = s.rxLen := rfl
@[simp] theorem commitResults_frmLen (h : Header) (k : Word) : (commitResults h k s).frmLen = BitVec.ofNat 17 (Config.hdrSize + h.len.toNat) := rfl
@[simp] theorem commitResults_resType (h : Header) (k : Word) : (commitResults h k s).resType = h.type := rfl
@[simp] theorem commitResults_resSeq (h : Header) (k : Word) : (commitResults h k s).resSeq = h.seq := rfl
@[simp] theorem commitResults_resLen (h : Header) (k : Word) : (commitResults h k s).resLen = h.len := rfl
@[simp] theorem commitResults_resHcsum (h : Header) (k : Word) : (commitResults h k s).resHcsum = h.csum := rfl
@[simp] theorem commitResults_resCcsum (h : Header) (k : Word) : (commitResults h k s).resCcsum = k := rfl
@[simp] theorem commitResults_crcAcc (h : Header) (k : Word) : (commitResults h k s).crcAcc = s.crcAcc := rfl
@[simp] theorem commitResults_buf (h : Header) (k : Word) : (commitResults h k s).buf = s.buf := rfl
@[simp] theorem commitResults_eng (h : Header) (k : Word) : (commitResults h k s).eng = s.eng := rfl
@[simp] theorem commitResults_resp (h : Header) (k : Word) : (commitResults h k s).resp = s.resp := rfl
@[simp] theorem commitResults_draws (h : Header) (k : Word) : (commitResults h k s).draws = s.draws := rfl
@[simp] theorem commitResults_events (h : Header) (k : Word) : (commitResults h k s).events = s.events := rfl

/-! ## clearStatus -/

@[simp] theorem clearStatus_ie (w : Word) : (clearStatus w s).ie = s.ie := rfl
@[simp] theorem clearStatus_done (w : Word) : (clearStatus w s).done = (s.done && !clearsDone w) := rfl
@[simp] theorem clearStatus_ovr (w : Word) : (clearStatus w s).ovr = (s.ovr && !clearsOvr w) := rfl
@[simp] theorem clearStatus_err (w : Word) : (clearStatus w s).err = s.err := rfl
@[simp] theorem clearStatus_crcOk (w : Word) : (clearStatus w s).crcOk = s.crcOk := rfl
@[simp] theorem clearStatus_typeKnown (w : Word) : (clearStatus w s).typeKnown = s.typeKnown := rfl
@[simp] theorem clearStatus_txType (w : Word) : (clearStatus w s).txType = s.txType := rfl
@[simp] theorem clearStatus_txSeq (w : Word) : (clearStatus w s).txSeq = s.txSeq := rfl
@[simp] theorem clearStatus_txLen (w : Word) : (clearStatus w s).txLen = s.txLen := rfl
@[simp] theorem clearStatus_rxLen (w : Word) : (clearStatus w s).rxLen = s.rxLen := rfl
@[simp] theorem clearStatus_frmLen (w : Word) : (clearStatus w s).frmLen = s.frmLen := rfl
@[simp] theorem clearStatus_resType (w : Word) : (clearStatus w s).resType = s.resType := rfl
@[simp] theorem clearStatus_resSeq (w : Word) : (clearStatus w s).resSeq = s.resSeq := rfl
@[simp] theorem clearStatus_resLen (w : Word) : (clearStatus w s).resLen = s.resLen := rfl
@[simp] theorem clearStatus_resHcsum (w : Word) : (clearStatus w s).resHcsum = s.resHcsum := rfl
@[simp] theorem clearStatus_resCcsum (w : Word) : (clearStatus w s).resCcsum = s.resCcsum := rfl
@[simp] theorem clearStatus_crcAcc (w : Word) : (clearStatus w s).crcAcc = s.crcAcc := rfl
@[simp] theorem clearStatus_buf (w : Word) : (clearStatus w s).buf = s.buf := rfl
@[simp] theorem clearStatus_eng (w : Word) : (clearStatus w s).eng = s.eng := rfl
@[simp] theorem clearStatus_resp (w : Word) : (clearStatus w s).resp = s.resp := rfl
@[simp] theorem clearStatus_draws (w : Word) : (clearStatus w s).draws = s.draws := rfl
@[simp] theorem clearStatus_events (w : Word) : (clearStatus w s).events = s.events := rfl

/-! ## takeTurn -/

@[simp] theorem takeTurn_ie : (takeTurn s).ie = s.ie := rfl
@[simp] theorem takeTurn_done : (takeTurn s).done = s.done := rfl
@[simp] theorem takeTurn_ovr : (takeTurn s).ovr = s.ovr := rfl
@[simp] theorem takeTurn_err : (takeTurn s).err = s.err := rfl
@[simp] theorem takeTurn_crcOk : (takeTurn s).crcOk = s.crcOk := rfl
@[simp] theorem takeTurn_typeKnown : (takeTurn s).typeKnown = s.typeKnown := rfl
@[simp] theorem takeTurn_txType : (takeTurn s).txType = s.txType := rfl
@[simp] theorem takeTurn_txSeq : (takeTurn s).txSeq = s.txSeq := rfl
@[simp] theorem takeTurn_txLen : (takeTurn s).txLen = s.txLen := rfl
@[simp] theorem takeTurn_rxLen : (takeTurn s).rxLen = s.rxLen := rfl
@[simp] theorem takeTurn_frmLen : (takeTurn s).frmLen = s.frmLen := rfl
@[simp] theorem takeTurn_resType : (takeTurn s).resType = s.resType := rfl
@[simp] theorem takeTurn_resSeq : (takeTurn s).resSeq = s.resSeq := rfl
@[simp] theorem takeTurn_resLen : (takeTurn s).resLen = s.resLen := rfl
@[simp] theorem takeTurn_resHcsum : (takeTurn s).resHcsum = s.resHcsum := rfl
@[simp] theorem takeTurn_resCcsum : (takeTurn s).resCcsum = s.resCcsum := rfl
@[simp] theorem takeTurn_crcAcc : (takeTurn s).crcAcc = s.crcAcc := rfl
@[simp] theorem takeTurn_buf : (takeTurn s).buf = s.buf := rfl
@[simp] theorem takeTurn_eng : (takeTurn s).eng = s.eng := rfl
@[simp] theorem takeTurn_resp : (takeTurn s).resp = s.resp := rfl
@[simp] theorem takeTurn_draws : (takeTurn s).draws = s.draws := rfl
@[simp] theorem takeTurn_events : (takeTurn s).events = s.events.tail := rfl

/-! ## resetBlock -/

@[simp] theorem resetBlock_ie : (resetBlock s).ie = State.reset.ie := rfl
@[simp] theorem resetBlock_done : (resetBlock s).done = State.reset.done := rfl
@[simp] theorem resetBlock_ovr : (resetBlock s).ovr = State.reset.ovr := rfl
@[simp] theorem resetBlock_err : (resetBlock s).err = State.reset.err := rfl
@[simp] theorem resetBlock_crcOk : (resetBlock s).crcOk = State.reset.crcOk := rfl
@[simp] theorem resetBlock_typeKnown : (resetBlock s).typeKnown = State.reset.typeKnown := rfl
@[simp] theorem resetBlock_txType : (resetBlock s).txType = State.reset.txType := rfl
@[simp] theorem resetBlock_txSeq : (resetBlock s).txSeq = State.reset.txSeq := rfl
@[simp] theorem resetBlock_txLen : (resetBlock s).txLen = State.reset.txLen := rfl
@[simp] theorem resetBlock_rxLen : (resetBlock s).rxLen = State.reset.rxLen := rfl
@[simp] theorem resetBlock_frmLen : (resetBlock s).frmLen = State.reset.frmLen := rfl
@[simp] theorem resetBlock_resType : (resetBlock s).resType = State.reset.resType := rfl
@[simp] theorem resetBlock_resSeq : (resetBlock s).resSeq = State.reset.resSeq := rfl
@[simp] theorem resetBlock_resLen : (resetBlock s).resLen = State.reset.resLen := rfl
@[simp] theorem resetBlock_resHcsum : (resetBlock s).resHcsum = State.reset.resHcsum := rfl
@[simp] theorem resetBlock_resCcsum : (resetBlock s).resCcsum = State.reset.resCcsum := rfl
@[simp] theorem resetBlock_crcAcc : (resetBlock s).crcAcc = State.reset.crcAcc := rfl
@[simp] theorem resetBlock_buf : (resetBlock s).buf = s.buf := rfl
@[simp] theorem resetBlock_eng : (resetBlock s).eng = State.reset.eng := rfl
@[simp] theorem resetBlock_resp : (resetBlock s).resp = s.resp := rfl
@[simp] theorem resetBlock_draws : (resetBlock s).draws = s.draws := rfl
@[simp] theorem resetBlock_events : (resetBlock s).events = s.events := rfl

/-! ## raiseBusError -/

@[simp] theorem raiseBusError_ie : (raiseBusError s).ie = s.ie := rfl
@[simp] theorem raiseBusError_done : (raiseBusError s).done = s.done := rfl
@[simp] theorem raiseBusError_ovr : (raiseBusError s).ovr = s.ovr := rfl
@[simp] theorem raiseBusError_err : (raiseBusError s).err = s.err := rfl
@[simp] theorem raiseBusError_crcOk : (raiseBusError s).crcOk = s.crcOk := rfl
@[simp] theorem raiseBusError_typeKnown : (raiseBusError s).typeKnown = s.typeKnown := rfl
@[simp] theorem raiseBusError_txType : (raiseBusError s).txType = s.txType := rfl
@[simp] theorem raiseBusError_txSeq : (raiseBusError s).txSeq = s.txSeq := rfl
@[simp] theorem raiseBusError_txLen : (raiseBusError s).txLen = s.txLen := rfl
@[simp] theorem raiseBusError_rxLen : (raiseBusError s).rxLen = s.rxLen := rfl
@[simp] theorem raiseBusError_frmLen : (raiseBusError s).frmLen = s.frmLen := rfl
@[simp] theorem raiseBusError_resType : (raiseBusError s).resType = s.resType := rfl
@[simp] theorem raiseBusError_resSeq : (raiseBusError s).resSeq = s.resSeq := rfl
@[simp] theorem raiseBusError_resLen : (raiseBusError s).resLen = s.resLen := rfl
@[simp] theorem raiseBusError_resHcsum : (raiseBusError s).resHcsum = s.resHcsum := rfl
@[simp] theorem raiseBusError_resCcsum : (raiseBusError s).resCcsum = s.resCcsum := rfl
@[simp] theorem raiseBusError_crcAcc : (raiseBusError s).crcAcc = s.crcAcc := rfl
@[simp] theorem raiseBusError_buf : (raiseBusError s).buf = s.buf := rfl
@[simp] theorem raiseBusError_eng : (raiseBusError s).eng = s.eng := rfl
@[simp] theorem raiseBusError_resp : (raiseBusError s).resp = some ⟨0#32, .error⟩ := rfl
@[simp] theorem raiseBusError_draws : (raiseBusError s).draws = s.draws := rfl
@[simp] theorem raiseBusError_events : (raiseBusError s).events = s.events := rfl

end Sys2Proof.Machine
end

