-- ==== Sys2Proof/Laws/Ops.lean ====
section
/-!
SUPPORT. What each shared operation can do, said once.
-/
namespace Sys2Proof.Machine

/-! ## Reading BUF -/

theorem drawByte_of_written {m : Memory} {i d : Nat} {b : Byte} (h : Memory.read m i = some b) :
    drawByte m i d = (b, d) := by
  simp [drawByte, h]

theorem drawByte_of_unwritten {m : Memory} {i d : Nat} (h : Memory.read m i = none) :
    drawByte m i d = (Config.freeByte d, d + 1) := by
  simp [drawByte, h]

/-- Two memories that agree at an index give the same byte and the same draws. -/
theorem drawByte_congr {m m' : Memory} {i d : Nat} (h : Memory.read m i = Memory.read m' i) :
    drawByte m i d = drawByte m' i d := by
  simp [drawByte, h]

@[simp] theorem drawBytes_length (m : Memory) (start n d : Nat) :
    (drawBytes m start n d).1.length = n := by
  induction n generalizing start d with
  | zero => rfl
  | succ k ih => simp [drawBytes, ih]

/-- Every written byte is read as written. -/
theorem drawBytes_of_written {m : Memory} {start n d k : Nat} {b : Byte} (hk : k < n)
    (h : Memory.read m (start + k) = some b) : (drawBytes m start n d).1[k]? = some b := by
  induction n generalizing start d k with
  | zero => omega
  | succ n ih =>
    cases k with
    | zero => simpa [drawBytes] using congrArg Prod.fst (drawByte_of_written (d := d) h)
    | succ k =>
      have h' : Memory.read m (start + 1 + k) = some b := by
        rw [← h]; congr 1; omega
      simpa [drawBytes] using ih (by omega) h'

/-- A range whose every byte is written draws nothing. -/
theorem drawBytes_draws_of_written {m : Memory} {start n d : Nat}
    (h : ∀ k, k < n → (Memory.read m (start + k)).isSome) : (drawBytes m start n d).2 = d := by
  induction n generalizing start d with
  | zero => rfl
  | succ n ih =>
    obtain ⟨b, hb⟩ := Option.isSome_iff_exists.mp (h 0 (by omega))
    simp only [Nat.add_zero] at hb
    simp only [drawBytes, drawByte_of_written hb]
    apply ih
    intro k hk
    have := h (k + 1) (by omega)
    rwa [show start + (k + 1) = start + 1 + k by omega] at this

/-- Two memories that agree on a range give the same bytes and the same draws. -/
theorem drawBytes_congr {m m' : Memory} {start n d : Nat}
    (h : ∀ k, k < n → Memory.read m (start + k) = Memory.read m' (start + k)) :
    drawBytes m start n d = drawBytes m' start n d := by
  induction n generalizing start d with
  | zero => rfl
  | succ n ih =>
    have h0 := drawByte_congr (d := d) (h 0 (by omega))
    simp only [Nat.add_zero] at h0
    simp only [drawBytes, h0]
    rw [ih (fun k hk => by
      have := h (k + 1) (by omega)
      rwa [show start + (k + 1) = start + 1 + k by omega] at this)]

/-- A range that holds a given list reads as that list and draws nothing. -/
theorem drawBytes_of_list {m : Memory} {start n d : Nat} {p : List Byte} (hn : p.length = n)
    (h : ∀ k, k < p.length → Memory.read m (start + k) = p[k]?) : drawBytes m start n d = (p, d) := by
  subst hn
  apply Prod.ext
  · apply List.ext_getElem?
    intro i
    by_cases hi : i < p.length
    · rw [drawBytes_of_written hi (b := p[i]) (by rw [h i hi]; simp [hi])]
      simp [hi]
    · rw [List.getElem?_eq_none (by simp; omega), List.getElem?_eq_none (by simpa using hi)]
  · apply drawBytes_draws_of_written
    intro k hk
    rw [h k hk]
    simp [hk]

/-! ## Byte order -/

theorem be16_eq_append (a b : Byte) : be16 a b = a ++ b := by
  apply BitVec.eq_of_getLsbD_eq
  intro i hi
  simp only [be16, BitVec.getLsbD_or, BitVec.getLsbD_shiftLeft, BitVec.getLsbD_setWidth,
    BitVec.getLsbD_append]
  by_cases h : i < 8
  · simp [h]; omega
  · simp [h, hi]
    simp [BitVec.getLsbD_of_ge b i (by omega)]; omega

/-! ## Argument state -/

theorem busy_of_idle {s : State} (h : s.eng = .idle) : s.busy = false := by
  simp [State.busy, h]

theorem busy_of_ne_idle {s : State} (h : s.eng ≠ .idle) : s.busy = true := by
  unfold State.busy; split <;> simp_all

theorem busy_iff {s : State} : s.busy = true ↔ s.eng ≠ .idle := by
  constructor
  · intro h he; simp [busy_of_idle he] at h
  · exact busy_of_ne_idle

theorem writeArgument_idle {f : State → State} {s : State} (h : s.eng = .idle) :
    writeArgument f s = answerWrite (f s) := by
  simp [writeArgument, busy_of_idle h]

theorem writeArgument_busy {f : State → State} {s : State} (h : s.eng ≠ .idle) :
    writeArgument f s = answerWrite (dropWrite s) := by
  simp [writeArgument, busy_of_ne_idle h]

/-! ## The commands -/

/-- The commit of ENCODE and DECODE leaves FRM_LEN = 11 + the length field, which 17 bits hold. -/
theorem commitResults_frmLen_toNat (h : Header) (k : Word) (s : State) :
    (commitResults h k s).frmLen.toNat = Config.hdrSize + h.len.toNat := by
  have := h.len.isLt
  simp only [commitResults_frmLen, BitVec.toNat_ofNat, Config.hdrSize]
  omega

theorem headerBytes_length (h : Header) : (headerBytes h).length = 11 := rfl

/-- DECODE ends in one of three ways (R123). -/
theorem performDecode_cases (s : State) :
    (s.rxLen.toNat < Config.hdrSize ∧ performDecode s = (errTooShort, s)) ∨
    (Config.hdrSize ≤ s.rxLen.toNat ∧
      (drawLen s.buf s.draws).1.toNat > s.rxLen.toNat - Config.hdrSize ∧
      performDecode s = (errTruncated, { s with draws := (drawLen s.buf s.draws).2 })) ∨
    (Config.hdrSize ≤ s.rxLen.toNat ∧
      (drawLen s.buf s.draws).1.toNat ≤ s.rxLen.toNat - Config.hdrSize ∧
      ∃ h p d, drawFrame s.buf (drawLen s.buf s.draws).1 (drawLen s.buf s.draws).2 = (h, p, d) ∧
        performDecode s = (errNone, commitResults h (crc32 p) { s with draws := d })) := by
  unfold performDecode
  by_cases h : s.rxLen.toNat < Config.hdrSize
  · exact .inl ⟨h, if_pos h⟩
  · right
    rw [if_neg h]
    by_cases hl : (drawLen s.buf s.draws).1.toNat > s.rxLen.toNat - Config.hdrSize
    · exact .inl ⟨by omega, hl, if_pos hl⟩
    · exact .inr ⟨by omega, by omega, _, _, _, rfl, if_neg hl⟩

end Sys2Proof.Machine
end

