-- ==== Sys2Proof/Laws/PerInstr.lean ====
section
/-!
SUPPORT. Per-instruction families. RoundTrip: decoding the byte image of a well-formed operation
gives the operation back (30_encoding.md R70 to R72).
-/
namespace Sys2Proof.Laws.RoundTrip

def Statement (i : Instr) : Prop := i.wellFormed = true → decode (Sys2Proof.encode i) = .ok i

/-- The byte image is read back as the transaction or the command word it was written from. -/
theorem of_decodePresented {i : Instr} (h : i.wellFormed = true → decodePresented (operationOf i) = i) :
    Statement i := by
  intro hw
  rw [Sys2Proof.encode, decode_presentedBytes, h hw]

theorem rdCtrl : Statement .rdCtrl := of_decodePresented fun _ => rfl
theorem wrCtrl (wdata : Word) : Statement (.wrCtrl wdata) := of_decodePresented fun _ => rfl
theorem rdStatus : Statement .rdStatus := of_decodePresented fun _ => rfl
theorem wrStatus (wdata : Word) : Statement (.wrStatus wdata) := of_decodePresented fun _ => rfl
theorem rdCmd : Statement .rdCmd := of_decodePresented fun _ => rfl
theorem wrCmd (wdata : Word) : Statement (.wrCmd wdata) := of_decodePresented fun _ => rfl
theorem rdTxType : Statement .rdTxType := of_decodePresented fun _ => rfl
theorem wrTxType (wdata : Word) : Statement (.wrTxType wdata) := of_decodePresented fun _ => rfl
theorem rdTxSeq : Statement .rdTxSeq := of_decodePresented fun _ => rfl
theorem wrTxSeq (wdata : Word) : Statement (.wrTxSeq wdata) := of_decodePresented fun _ => rfl
theorem rdTxLen : Statement .rdTxLen := of_decodePresented fun _ => rfl
theorem wrTxLen (wdata : Word) : Statement (.wrTxLen wdata) := of_decodePresented fun _ => rfl
theorem rdRxLen : Statement .rdRxLen := of_decodePresented fun _ => rfl
theorem wrRxLen (wdata : Word) : Statement (.wrRxLen wdata) := of_decodePresented fun _ => rfl
theorem rdFrmLen : Statement .rdFrmLen := of_decodePresented fun _ => rfl
theorem wrFrmLen (wdata : Word) : Statement (.wrFrmLen wdata) := of_decodePresented fun _ => rfl
theorem rdResType : Statement .rdResType := of_decodePresented fun _ => rfl
theorem wrResType (wdata : Word) : Statement (.wrResType wdata) := of_decodePresented fun _ => rfl
theorem rdResSeq : Statement .rdResSeq := of_decodePresented fun _ => rfl
theorem wrResSeq (wdata : Word) : Statement (.wrResSeq wdata) := of_decodePresented fun _ => rfl
theorem rdResLen : Statement .rdResLen := of_decodePresented fun _ => rfl
theorem wrResLen (wdata : Word) : Statement (.wrResLen wdata) := of_decodePresented fun _ => rfl
theorem rdResHcsum : Statement .rdResHcsum := of_decodePresented fun _ => rfl
theorem wrResHcsum (wdata : Word) : Statement (.wrResHcsum wdata) := of_decodePresented fun _ => rfl
theorem rdResCcsum : Statement .rdResCcsum := of_decodePresented fun _ => rfl
theorem wrResCcsum (wdata : Word) : Statement (.wrResCcsum wdata) := of_decodePresented fun _ => rfl
theorem rdCrcAcc : Statement .rdCrcAcc := of_decodePresented fun _ => rfl
theorem wrCrcAcc (wdata : Word) : Statement (.wrCrcAcc wdata) := of_decodePresented fun _ => rfl
theorem rdCrcData : Statement .rdCrcData := of_decodePresented fun _ => rfl
theorem wrCrcData (wdata : Word) : Statement (.wrCrcData wdata) := of_decodePresented fun _ => rfl
theorem rdCrcOut : Statement .rdCrcOut := of_decodePresented fun _ => rfl
theorem wrCrcOut (wdata : Word) : Statement (.wrCrcOut wdata) := of_decodePresented fun _ => rfl
theorem cmdEncode : Statement .cmdEncode := of_decodePresented fun _ => rfl
theorem cmdDecode : Statement .cmdDecode := of_decodePresented fun _ => rfl

theorem rdBuf (i : Count) : Statement (.rdBuf i) := by
  refine of_decodePresented fun h => ?_
  simp only [Instr.wellFormed, decide_eq_true_eq] at h
  simp [operationOf, decodePresented, decodeRequest, bufIndex_bufAddr h]

theorem wrBuf (i : Count) (wdata : Word) : Statement (.wrBuf i wdata) := by
  refine of_decodePresented fun h => ?_
  simp only [Instr.wellFormed, decide_eq_true_eq] at h
  simp [operationOf, decodePresented, decodeRequest, bufIndex_bufAddr h]

theorem busErr (req : Request) : Statement (.busErr req) := by
  refine of_decodePresented fun h => ?_
  exact decodeRequest_of_not_admitted (by simpa [Instr.wellFormed] using h)

theorem cmdReserved (word : Word) : Statement (.cmdReserved word) := by
  refine of_decodePresented fun h => ?_
  simp_all [Instr.wellFormed, definedCommandWord, operationOf, decodePresented, decodeCommand, commandOf]

end Sys2Proof.Laws.RoundTrip
end

