-- ==== Sys2Proof/Laws/Step.lean ====
section
/-!
SUPPORT. What a step can do, said once: the operation whose turn it is, or a turn in which none runs;
and the register reads and the bus decode as whole families.
-/
namespace Sys2Proof.Machine

/-- A step runs the operation whose turn it is, or is a turn without one. -/
theorem step_cases (s : State) :
    (∃ i, nextInstr s = some i ∧ step s = exec i (takeTurn s)) ∨
      (nextInstr s = none ∧ step s = .next (turnWithoutInstr s)) := by
  unfold step
  cases h : nextInstr s with
  | none => exact .inr ⟨rfl, rfl⟩
  | some i => exact .inl ⟨i, rfl, rfl⟩

/-- Whose turn it is, and what the step then does. -/
theorem step_turns (s : State) :
    (∃ req rest, s.events = .host req :: rest ∧ step s = exec (decodeRequest req) (takeTurn s)) ∨
    (s.eng = .busy .encode ∧ (s.events = [] ∨ ∃ rest, s.events = .engine :: rest) ∧
      step s = exec .cmdEncode (takeTurn s)) ∨
    (s.eng = .busy .decode ∧ (s.events = [] ∨ ∃ rest, s.events = .engine :: rest) ∧
      step s = exec .cmdDecode (takeTurn s)) ∨
    (∃ rest, s.events = .reset :: rest ∧ step s = .next (resetBlock (takeTurn s))) ∨
    (s.eng = .idle ∧ s.events = [] ∧ step s = .next s) ∨
    (s.eng = .idle ∧ (∃ rest, s.events = .engine :: rest) ∧ step s = .next (takeTurn s)) := by
  rcases hev : s.events with _ | ⟨_ | _ | _, rest⟩ <;> rcases hen : s.eng with _ | _ | _ <;>
    simp [step, nextInstr, engineInstr, turnWithoutInstr, hev, hen]

/-- Every register read answers the register's value and changes nothing else (R57). -/
theorem exec_readOp (r : Reg) (s : State) :
    exec (readOp r) s = .next (answerRead (readValue r s) s) := by
  cases r <;> rfl

/-- A transaction is a register read, a register write, a buffer read, a buffer write or a bus error
(R52). -/
theorem decodeRequest_cases (req : Request) :
    (∃ r a, req = .read .four a ∧ regAt a = some r ∧ decodeRequest req = readOp r) ∨
    (∃ r a w, req = .write .four a w ∧ regAt a = some r ∧ decodeRequest req = writeOp r w) ∨
    (∃ i a, req = .read .one a ∧ bufIndex a = some i ∧ decodeRequest req = .rdBuf i) ∨
    (∃ i a w, req = .write .one a w ∧ bufIndex a = some i ∧ decodeRequest req = .wrBuf i w) ∨
    decodeRequest req = .busErr req := by
  rcases req with ⟨size, a⟩ | ⟨size, a, w⟩ <;> rcases size with _ | _ | _ | _ <;>
    rcases hr : regAt a with _ | r <;> rcases hb : bufIndex a with _ | i <;>
    first
    | (simp [decodeRequest, hr, hb]; done)
    | exact .inr (.inl ⟨_, _, _, rfl, hr, by simp [decodeRequest, hr]⟩)
    | exact .inr (.inr (.inr (.inl ⟨_, _, _, rfl, hb, by simp [decodeRequest, hb]⟩)))

/-- A buffer index of the bus decode lies inside BUF (R51). -/
theorem bufIndex_below {a : BusAddr} {i : Count} (h : bufIndex a = some i) :
    i.toNat = a.toNat - 0x10000 ∧ i.toNat < Config.frameCap := by
  unfold bufIndex at h
  split at h
  · next hw =>
    obtain rfl := Option.some.inj h
    simp only [BitVec.toNat_ofNat, Config.frameCap]
    omega
  · cases h

/-- A write's answer is an OK response and the state after the write. -/
theorem answersWrite_answerWrite (t : State) : answersWrite (.next (answerWrite t)) t := ⟨_, _, rfl⟩

/-- Two runs in a row are one run. -/
theorem State.runs_add {s u t : State} {a b : Nat} (h : s.runs a u) (h' : u.runs b t) : s.runs (a + b) t := by
  induction a generalizing s with
  | zero => cases h; simpa using h'
  | succ n ih =>
    obtain ⟨v, hv, hr⟩ := h
    rw [show n + 1 + b = (n + b) + 1 by omega]
    exact ⟨v, hv, ih hr⟩

/-! ## Where an operation is decoded -/

/-- A read is decoded where its descriptor says. -/
theorem readsAt_of_request {d : Descriptor} {i : Instr} (size : Size) (a : BusAddr)
    (hd : 0#1 ++ sizeCode size ++ a = d) (hi : decodeRequest (.read size a) = i) : readsAt d i := by
  subst hd
  show decode (presentedBytes (.inl (.read size a))) = _
  rw [decode, presented_presentedBytes]
  simp [Except.map, decodePresented, hi]

/-- A write is decoded where its descriptor says, with every data word. -/
theorem writesAt_of_request {d : Descriptor} {op : Word → Instr} (size : Size) (a : BusAddr)
    (hd : 1#1 ++ sizeCode size ++ a = d) (hi : ∀ w, decodeRequest (.write size a w) = op w) :
    writesAt d op := by
  subst hd
  intro w
  show decode (presentedBytes (.inl (.write size a w))) = _
  rw [decode, presented_presentedBytes]
  simp [Except.map, decodePresented, hi]

/-! ## What a host transaction can do -/

/-- A command word while idle is accepted or ends with BAD_CMD (R120). -/
theorem issueCommand_cases (w : Word) (s : State) :
    ((w = 1#32 ∨ w = 2#32) ∧ ∃ c, issueCommand w s = acceptCommand c s) ∨
      (w ≠ 1#32 ∧ w ≠ 2#32 ∧ issueCommand w s = endCommand errBadCmd s) := by
  unfold issueCommand commandOf
  by_cases h1 : w = 1#32
  · exact .inl ⟨.inl h1, _, by simp [h1]; rfl⟩
  · by_cases h2 : w = 2#32
    · exact .inl ⟨.inr h2, _, by simp [h2]; rfl⟩
    · exact .inr ⟨h1, h2, by simp [h1, h2]⟩

/-- What the write of a register can do to a state, the response aside. -/
inductive WriteEffect (s : State) : Instr → State → Prop where
  | ignored (i : Instr) (h : i ∈ [Reg.crcOut, .frmLen, .resType, .resSeq, .resLen, .resHcsum,
      .resCcsum].map (writeOp · w)) : WriteEffect s i s
  | ctrl (w : Word) : WriteEffect s (.wrCtrl w) { s with ie := ieOf w }
  | status (w : Word) : WriteEffect s (.wrStatus w) (clearStatus w s)
  | crcAcc (w : Word) : WriteEffect s (.wrCrcAcc w) { s with crcAcc := w }
  | crcData (w : Word) : WriteEffect s (.wrCrcData w) { s with crcAcc := crcStep s.crcAcc (lowByte w) }
  | dropped (i : Instr) (h : s.eng ≠ .idle) (hi : i ∈ [Reg.txType, .txSeq, .txLen, .rxLen, .cmd].map
      (writeOp · w)) : WriteEffect s i (dropWrite s)
  | txType (w : Word) (h : s.eng = .idle) : WriteEffect s (.wrTxType w) { s with txType := lowByte w }
  | txSeq (w : Word) (h : s.eng = .idle) : WriteEffect s (.wrTxSeq w) { s with txSeq := w }
  | txLen (w : Word) (h : s.eng = .idle) : WriteEffect s (.wrTxLen w) { s with txLen := lowHalf w }
  | rxLen (w : Word) (h : s.eng = .idle) : WriteEffect s (.wrRxLen w) { s with rxLen := clampedCount w }
  | cmd (w : Word) (h : s.eng = .idle) : WriteEffect s (.wrCmd w) (issueCommand w s)

/-- Every register write is answered OK after one of these effects. -/
theorem exec_writeOp (r : Reg) (w : Word) (s : State) :
    ∃ t, WriteEffect s (writeOp r w) t ∧ exec (writeOp r w) s = .next (answerWrite t) := by
  have arg (f : State → State) (i : Instr)
      (hi : i ∈ [Reg.txType, .txSeq, .txLen, .rxLen, .cmd].map (writeOp · w))
      (he : exec i s = .next (writeArgument f s)) (hf : s.eng = .idle → WriteEffect s i (f s)) :
      ∃ t, WriteEffect s i t ∧ exec i s = .next (answerWrite t) := by
    by_cases h : s.eng = .idle
    · exact ⟨_, hf h, by rw [he, writeArgument_idle h]⟩
    · exact ⟨_, .dropped (w := w) i h hi, by rw [he, writeArgument_busy h]⟩
  cases r
  case ctrl => exact ⟨_, .ctrl w, rfl⟩
  case status => exact ⟨_, .status w, rfl⟩
  case crcAcc => exact ⟨_, .crcAcc w, rfl⟩
  case crcData => exact ⟨_, .crcData w, rfl⟩
  case cmd => exact arg _ _ (by simp) rfl (.cmd w)
  case txType => exact arg _ _ (by simp) rfl (.txType w)
  case txSeq => exact arg _ _ (by simp) rfl (.txSeq w)
  case txLen => exact arg _ _ (by simp) rfl (.txLen w)
  case rxLen => exact arg _ _ (by simp) rfl (.rxLen w)
  all_goals exact ⟨_, .ignored (w := w) _ (by simp), rfl⟩

/-! ## What a completion step can do -/

/-- ENCODE's completion (R121, R122): a commit of one checksum in both places, BUF changed below 11 only and
in canonical form if it was. -/
theorem execCmdEncode_next {s t : State} (h : exec .cmdEncode s = .next t) (hb : s.eng = .busy .encode) :
    ∃ hd m d, t = finishCommand errNone (commitResults hd hd.csum { s with buf := m, draws := d }) ∧
      (∀ j, 11 ≤ j → Memory.read m j = Memory.read s.buf j) ∧
      (Memory.wf s.buf = true → Memory.wf m = true) := by
  simp only [exec, execCmdEncode, hb] at h
  cases h
  exact ⟨_, _, _, rfl,
    fun j hj => Memory.read_writeBytes_outside _ (by rw [headerBytes_length]; omega),
    fun hw => Memory.writeBytes_keeps_wf _ hw (by rw [headerBytes_length]; decide)⟩

/-- DECODE's completion (R121, R123): an error that commits nothing, or a commit. -/
theorem execCmdDecode_next {s t : State} (h : exec .cmdDecode s = .next t) (hb : s.eng = .busy .decode) :
    (∃ e d, (e = errTooShort ∨ e = errTruncated) ∧ t = finishCommand e { s with draws := d }) ∨
      (11 ≤ s.rxLen.toNat ∧ ∃ hd k d,
        t = finishCommand errNone (commitResults hd k { s with draws := d })) := by
  simp only [exec, execCmdDecode, hb] at h
  cases h
  obtain ⟨-, hp⟩ | ⟨-, -, hp⟩ | ⟨hn, -, hd, p, d, -, hp⟩ := performDecode_cases s
  · exact .inl ⟨_, s.draws, .inl rfl, by simp [hp]⟩
  · exact .inl ⟨_, _, .inr rfl, by simp [hp]; rfl⟩
  · exact .inr ⟨hn, _, _, _, by simp [hp]; rfl⟩

end Sys2Proof.Machine
end

