-- ==== Sys2Proof/Tests/Slice0.lean ====
section
/-!
SUPPORT. The model's own tests: the ill-formed terms that WellFormed refuses, words written out from the
spec's encodings, single operations checked against the vectors of 95_test_vectors.md (their ids stand in
the docstrings), and for every statement with hypotheses a witness that meets them.
-/

open Sys2Proof Sys2Proof.Machine

namespace Sys2Proof.Tests

/-! ## Helpers -/

/-- The state an operation answers. -/
def after (i : Instr) (s : State) : State :=
  match exec i s with
  | .next t => t
  | .fault _ => s
  | .refused _ => s

/-- The state a step answers. -/
def stepped (s : State) : State :=
  match step s with
  | .next t => t
  | .fault _ => s
  | .refused _ => s

/-- The data a read returns. -/
def rdata (i : Instr) (s : State) : Option Word := (after i s).resp.map (·.rdata)

/-- BUF with the given bytes from an index on, and no other byte written. -/
def bytesFrom (start : Nat) : List Byte → Memory
  | [] => []
  | b :: rest => (start, b) :: bytesFrom (start + 1) rest

/-- The frame of EV1 and DV6: DATA, seq 0, "123456789". -/
def frame9 : List Byte :=
  [0x02#8, 0x00#8, 0x00#8, 0x00#8, 0x00#8, 0x00#8, 0x09#8, 0xCB#8, 0xF4#8, 0x39#8, 0x26#8,
    0x31#8, 0x32#8, 0x33#8, 0x34#8, 0x35#8, 0x36#8, 0x37#8, 0x38#8, 0x39#8]

/-- A pending ENCODE of DATA, seq 5, "hi" (EV2), with BUF[13] = 0x55. -/
def encodeHi : State :=
  { State.reset with
    txType := 0x02#8, txSeq := 5#32, txLen := 2#16, eng := .busy .encode
    buf := bytesFrom 11 [0x68#8, 0x69#8, 0x55#8] }

/-- A pending DECODE of the given bytes. -/
def decodeOf (bytes : List Byte) (n : Count) : State :=
  { State.reset with rxLen := n, eng := .busy .decode, buf := bytesFrom 0 bytes }

/-- A state with events to come. -/
def withEvents (s : State) (es : List Event) : State := { s with events := es }

/-! ## WellFormed refuses ill-formed terms -/

theorem test_wellFormed_rdBuf_past_the_end : (Instr.rdBuf 65546#17).wellFormed = false := by decide
theorem test_wellFormed_rdBuf_last : (Instr.rdBuf 65545#17).wellFormed = true := by decide
theorem test_wellFormed_wrBuf_past_the_end : (Instr.wrBuf 65546#17 0#32).wellFormed = false := by decide
theorem test_wellFormed_busErr_of_a_register_access :
    (Instr.busErr (.read .four 0x3C#18)).wellFormed = false := by decide
theorem test_wellFormed_busErr_of_a_buffer_access :
    (Instr.busErr (.write .one 0x20009#18 0#32)).wellFormed = false := by decide
theorem test_wellFormed_cmdReserved_encode : (Instr.cmdReserved 1#32).wellFormed = false := by decide
theorem test_wellFormed_cmdReserved_decode : (Instr.cmdReserved 2#32).wellFormed = false := by decide

/-! ## Decoding: descriptors W[20] SZ[19:18] A[17:0] (R70), written out bit by bit, and command words (R72) -/

theorem test_decode_register_reads :
    decodeTableWord 24 0b0_10_000000000000000000 = some .rdCtrl ∧
    decodeTableWord 24 0b0_10_000000000000000100 = some .rdStatus ∧
    decodeTableWord 24 0b0_10_000000000000001000 = some .rdCmd ∧
    decodeTableWord 24 0b0_10_000000000000001100 = some .rdTxType ∧
    decodeTableWord 24 0b0_10_000000000000010000 = some .rdTxSeq ∧
    decodeTableWord 24 0b0_10_000000000000010100 = some .rdTxLen ∧
    decodeTableWord 24 0b0_10_000000000000011000 = some .rdRxLen ∧
    decodeTableWord 24 0b0_10_000000000000011100 = some .rdFrmLen := by decide

theorem test_decode_result_and_crc_reads :
    decodeTableWord 24 0b0_10_000000000000100000 = some .rdResType ∧
    decodeTableWord 24 0b0_10_000000000000100100 = some .rdResSeq ∧
    decodeTableWord 24 0b0_10_000000000000101000 = some .rdResLen ∧
    decodeTableWord 24 0b0_10_000000000000101100 = some .rdResHcsum ∧
    decodeTableWord 24 0b0_10_000000000000110000 = some .rdResCcsum ∧
    decodeTableWord 24 0b0_10_000000000000110100 = some .rdCrcAcc ∧
    decodeTableWord 24 0b0_10_000000000000111000 = some .rdCrcData ∧
    decodeTableWord 24 0b0_10_000000000000111100 = some .rdCrcOut := by decide

/-- A write's data word stands above the 24 bits of its descriptor. -/
theorem test_decode_register_writes :
    decodeTableWord 56 0x00000001_180000 = some (.wrCtrl 0x00000001#32) ∧
    decodeTableWord 56 0x00000006_180004 = some (.wrStatus 0x00000006#32) ∧
    decodeTableWord 56 0x00000011_180008 = some (.wrCmd 0x00000011#32) ∧
    decodeTableWord 56 0x00000002_18000C = some (.wrTxType 0x00000002#32) ∧
    decodeTableWord 56 0x12345678_180010 = some (.wrTxSeq 0x12345678#32) ∧
    decodeTableWord 56 0x00000009_180014 = some (.wrTxLen 0x00000009#32) ∧
    decodeTableWord 56 0xFFFFFFFF_180018 = some (.wrRxLen 0xFFFFFFFF#32) ∧
    decodeTableWord 24 0x18001C = some (.wrFrmLen 0#32) := by decide

theorem test_decode_result_and_crc_writes :
    decodeTableWord 24 0x180020 = some (.wrResType 0#32) ∧
    decodeTableWord 24 0x180024 = some (.wrResSeq 0#32) ∧
    decodeTableWord 24 0x180028 = some (.wrResLen 0#32) ∧
    decodeTableWord 24 0x18002C = some (.wrResHcsum 0#32) ∧
    decodeTableWord 24 0x180030 = some (.wrResCcsum 0#32) ∧
    decodeTableWord 56 0xFFFFFFFF_180034 = some (.wrCrcAcc 0xFFFFFFFF#32) ∧
    decodeTableWord 56 0x00000061_180038 = some (.wrCrcData 0x00000061#32) ∧
    decodeTableWord 56 0x12345678_18003C = some (.wrCrcOut 0x12345678#32) := by decide

/-- The buffer window's first and last byte, and the addresses just outside it (R51, BV6, BV7, BV9). -/
theorem test_decode_buffer_window :
    decodeTableWord 24 0x010000 = some (.rdBuf 0#17) ∧
    decodeTableWord 24 0x020009 = some (.rdBuf 65545#17) ∧
    decodeTableWord 24 0x02000A = some (.busErr (.read .one 0x2000A#18)) ∧
    decodeTableWord 56 0x00000068_11000B = some (.wrBuf 11#17 0x68#32) ∧
    decodeTableWord 56 0x00000055_12000A = some (.busErr (.write .one 0x2000A#18 0x55#32)) ∧
    decodeTableWord 24 0x10FFFF = some (.busErr (.write .one 0x0FFFF#18 0#32)) := by decide

/-- The other bus errors (BV1 to BV5, BV8), and SZ = 3 (R70). -/
theorem test_decode_bus_errors :
    decodeTableWord 24 0x000004 = some (.busErr (.read .one 0x00004#18)) ∧
    decodeTableWord 24 0x150000 = some (.busErr (.write .two 0x10000#18 0#32)) ∧
    decodeTableWord 24 0x090000 = some (.busErr (.read .four 0x10000#18)) ∧
    decodeTableWord 24 0x080040 = some (.busErr (.read .four 0x00040#18)) ∧
    decodeTableWord 24 0x080006 = some (.busErr (.read .four 0x00006#18)) ∧
    decodeTableWord 24 0x1BFFFC = some (.busErr (.write .four 0x3FFFC#18 0#32)) ∧
    decodeTableWord 24 0x0C0000 = some (.busErr (.read .notPresentable 0x00000#18)) := by decide

theorem test_decode_command_words :
    decodeTableWord 32 0x00000001 = some .cmdEncode ∧
    decodeTableWord 32 0x00000002 = some .cmdDecode ∧
    decodeTableWord 32 0x00000000 = some (.cmdReserved 0#32) ∧
    decodeTableWord 32 0x80000001 = some (.cmdReserved 0x80000001#32) ∧
    decodeTableWord 32 0x00000003 = some (.cmdReserved 3#32) := by decide

/-- What is no operation is rejected by name. -/
theorem test_decode_rejects :
    (decode []).toOption = none ∧ (decode [0x00#8, 0x00#8]).toOption = none ∧
    (decode [0x00#8, 0x00#8, 0x28#8]).toOption = none ∧
    (decode [0x00#8, 0x00#8, 0x18#8]).toOption = none ∧
    (decode [0x00#8, 0x00#8, 0x08#8, 0x00#8, 0x00#8, 0x00#8, 0x00#8]).toOption = none := by decide

theorem test_encode_bytes :
    encode .rdStatus = [0x04#8, 0x00#8, 0x08#8] ∧
    encode (.wrBuf 65545#17 0x5A#32) = [0x09#8, 0x00#8, 0x12#8, 0x5A#8, 0x00#8, 0x00#8, 0x00#8] ∧
    encode .cmdDecode = [0x02#8, 0x00#8, 0x00#8, 0x00#8] := by decide

/-! ## Registers (2.6) -/

/-- AV2: the reserved bits of CTRL read 0. -/
theorem test_wrCtrl_all_ones : rdata .rdCtrl (after (.wrCtrl 0xFFFFFFFF#32) State.reset) = some 1#32 := by decide
/-- AV12: CTRL is not argument state. -/
theorem test_wrCtrl_while_busy :
    (after (.wrCtrl 1#32) encodeHi).ie = true ∧ (after (.wrCtrl 1#32) encodeHi).ovr = false := by decide
theorem test_rdCtrl_reset : rdata .rdCtrl State.reset = some 0#32 := by decide

/-- STATUS 0x00000306 as AV4 has it. -/
def status306 : State := { State.reset with typeKnown := true, crcOk := true, ovr := true, done := true }

theorem test_rdStatus_flags : rdata .rdStatus status306 = some 0x00000306#32 := by decide
/-- P3's poll: BUSY with the old result flags. -/
theorem test_rdStatus_busy :
    rdata .rdStatus { status306 with done := false, ovr := false, crcOk := false, eng := .busy .encode } =
      some 0x00000201#32 := by decide
/-- AV3: STATUS 0x16 to 0x14. -/
theorem test_wrStatus_done :
    let s := { State.reset with err := 1#4, ovr := true, done := true }
    statusWord s = 0x16#32 ∧ statusWord (after (.wrStatus 2#32) s) = 0x14#32 := by decide
/-- AV4: only DONE and OVR clear. -/
theorem test_wrStatus_all_ones : statusWord (after (.wrStatus 0xFFFFFFFF#32) status306) = 0x300#32 := by decide

/-- EV10: TX_TYPE written 0x1FF reads 0xFF. -/
theorem test_wrTxType_low_byte : rdata .rdTxType (after (.wrTxType 0x1FF#32) State.reset) = some 0xFF#32 := by decide
theorem test_rdTxType : rdata .rdTxType encodeHi = some 2#32 := by decide
/-- AV9. -/
theorem test_wrTxSeq : rdata .rdTxSeq (after (.wrTxSeq 0xDEADBEEF#32) State.reset) = some 0xDEADBEEF#32 := by decide
theorem test_rdTxSeq : rdata .rdTxSeq encodeHi = some 5#32 := by decide
/-- EV10: TX_LEN written 0x12345 reads 0x2345. -/
theorem test_wrTxLen_low_half : rdata .rdTxLen (after (.wrTxLen 0x12345#32) State.reset) = some 0x2345#32 := by decide
/-- AV11. -/
theorem test_wrTxLen_while_busy :
    (after (.wrTxLen 3#32) encodeHi).txLen = 2#16 ∧ (after (.wrTxLen 3#32) encodeHi).ovr = true := by decide
theorem test_rdTxLen : rdata .rdTxLen encodeHi = some 2#32 := by decide
/-- AV6. -/
theorem test_wrRxLen_clamps_all_ones :
    rdata .rdRxLen (after (.wrRxLen 0xFFFFFFFF#32) State.reset) = some 0x1000A#32 := by decide
/-- AV7, AV8, and one below. -/
theorem test_wrRxLen_at_the_clamp :
    (after (.wrRxLen 65547#32) State.reset).rxLen = 65546#17 ∧
    (after (.wrRxLen 65546#32) State.reset).rxLen = 65546#17 ∧
    (after (.wrRxLen 65545#32) State.reset).rxLen = 65545#17 := by decide
theorem test_rdRxLen : rdata .rdRxLen (decodeOf [] 12#17) = some 12#32 := by decide

/-- The result registers of DV6. -/
def results6 : State :=
  { State.reset with
    frmLen := 20#17, resType := 0x02#8, resSeq := 0xA1B2C3D4#32, resLen := 9#16
    resHcsum := 0xCBF43926#32, resCcsum := 0xDC8F2D65#32 }

theorem test_rdFrmLen : rdata .rdFrmLen results6 = some 0x14#32 := by decide
/-- AV10. -/
theorem test_wrFrmLen_ignored :
    (after (.wrFrmLen 0#32) results6).frmLen = 20#17 ∧ (after (.wrFrmLen 0#32) results6).ovr = false := by decide
theorem test_rdResType : rdata .rdResType results6 = some 2#32 := by decide
theorem test_wrResType_ignored : (after (.wrResType 7#32) results6).resType = 2#8 := by decide
theorem test_rdResSeq : rdata .rdResSeq results6 = some 0xA1B2C3D4#32 := by decide
theorem test_wrResSeq_ignored : (after (.wrResSeq 7#32) results6).resSeq = 0xA1B2C3D4#32 := by decide
theorem test_rdResLen : rdata .rdResLen results6 = some 9#32 := by decide
theorem test_wrResLen_ignored : (after (.wrResLen 7#32) results6).resLen = 9#16 := by decide
theorem test_rdResHcsum : rdata .rdResHcsum results6 = some 0xCBF43926#32 := by decide
theorem test_wrResHcsum_ignored : (after (.wrResHcsum 7#32) results6).resHcsum = 0xCBF43926#32 := by decide
theorem test_rdResCcsum : rdata .rdResCcsum results6 = some 0xDC8F2D65#32 := by decide
theorem test_wrResCcsum_ignored : (after (.wrResCcsum 7#32) results6).resCcsum = 0xDC8F2D65#32 := by decide

/-! ## The CRC unit (2.1, 2.2) -/

/-- CU1. -/
theorem test_rdCrcAcc_reset : rdata .rdCrcAcc State.reset = some 0xFFFFFFFF#32 := by decide
theorem test_rdCrcOut_reset : rdata .rdCrcOut State.reset = some 0#32 := by decide
/-- CU2: the first byte. -/
theorem test_wrCrcData_a : (after (.wrCrcData 0x61#32) State.reset).crcAcc = 0x174841BC#32 := by decide +kernel
/-- CU5: only wdata[7:0] is fed. -/
theorem test_wrCrcData_low_byte : (after (.wrCrcData 0x100#32) State.reset).crcAcc = 0x2DFD1072#32 := by decide +kernel
/-- CU2's value of CRC_OUT after "a". -/
theorem test_rdCrcOut_complement :
    rdata .rdCrcOut { State.reset with crcAcc := 0x174841BC#32 } = some 0xE8B7BE43#32 := by decide
/-- CU4's first line, while busy (R110). -/
theorem test_wrCrcAcc_while_busy :
    (after (.wrCrcAcc 0x174841BC#32) encodeHi).crcAcc = 0x174841BC#32 ∧
    (after (.wrCrcAcc 0x174841BC#32) encodeHi).ovr = false := by decide
/-- CU8. -/
theorem test_wrCrcOut_ignored : (after (.wrCrcOut 0x12345678#32) State.reset).crcAcc = 0xFFFFFFFF#32 := by decide
/-- CU9. -/
theorem test_rdCrcData_zero : rdata .rdCrcData State.reset = some 0#32 := by decide
/-- 2.1's table of the step. -/
theorem test_crcStep_values :
    crcStep 0xFFFFFFFF#32 0x31#8 = 0x7C231048#32 ∧ crcStep 0xFFFFFFFF#32 0x80#8 = 0xC0459352#32 ∧
    crcStep 0x00000000#32 0x01#8 = 0x77073096#32 ∧ crcStep 0x00000000#32 0x80#8 = 0xEDB88320#32 := by
  decide +kernel

/-! ## The buffer and bus errors (2.6, 2.7) -/

/-- AV13. -/
theorem test_rdBuf_last : rdata (.rdBuf 65545#17) (after (.wrBuf 65545#17 0x5A#32) State.reset) = some 0x5A#32 := by decide
/-- AV16. -/
theorem test_rdBuf_while_busy : rdata (.rdBuf 11#17) encodeHi = some 0x68#32 := by decide
/-- AV14. -/
theorem test_wrBuf_low_byte : (after (.wrBuf 0#17 0x1234#32) State.reset).buf = [(0, 0x34#8)] := by decide
/-- AV15. -/
theorem test_wrBuf_while_busy :
    (after (.wrBuf 11#17 0x30#32) encodeHi).buf = encodeHi.buf ∧ (after (.wrBuf 11#17 0x30#32) encodeHi).ovr = true := by
  decide
/-- BV1: rdata is 0 and the response ERROR. -/
theorem test_busErr_read :
    after (.busErr (.read .one 0x00004#18)) status306 = { status306 with resp := some ⟨0#32, .error⟩ } := by decide
/-- BV6, while busy: rdata is 0 for a write too (2.7's heading), and OVR is not set. -/
theorem test_busErr_write_while_busy :
    after (.busErr (.write .one 0x2000A#18 0x55#32)) encodeHi =
      { encodeHi with resp := some ⟨0#32, .error⟩ } := by decide

/-! ## Commands (2.3 to 2.5) -/

/-- KV2: acceptance clears DONE and ERR and keeps the result flags. -/
theorem test_wrCmd_accepted :
    statusWord (after (.wrCmd 1#32) { status306 with ovr := false, err := 2#4 }) = 0x301#32 := by decide
/-- KV8: while busy a reserved word is dropped, no BAD_CMD. -/
theorem test_wrCmd_while_busy : statusWord (after (.wrCmd 0#32) encodeHi) = 0x5#32 := by decide
/-- KV9. -/
theorem test_rdCmd_zero : rdata .rdCmd State.reset = some 0#32 := by decide
/-- KV3. -/
theorem test_cmdReserved_bad_cmd : statusWord (after (.cmdReserved 0#32) State.reset) = 0x32#32 := by decide
theorem test_cmdReserved_while_busy : statusWord (after (.cmdReserved 0x11#32) encodeHi) = 0x5#32 := by decide

/-- EV2: the header is written before the payload, and BUF[13] keeps its value. -/
theorem test_cmdEncode_buffer :
    (after .cmdEncode encodeHi).buf = bytesFrom 0 [0x02#8, 0x00#8, 0x00#8, 0x00#8, 0x05#8, 0x00#8, 0x02#8,
      0xD8#8, 0x93#8, 0x2A#8, 0xAC#8, 0x68#8, 0x69#8, 0x55#8] := by decide +kernel
/-- EV2's registers. -/
theorem test_cmdEncode_registers :
    let t := after .cmdEncode encodeHi
    statusWord t = 0x302#32 ∧ t.frmLen = 13#17 ∧ t.resLen = 2#16 ∧ t.resSeq = 5#32 ∧
      t.resHcsum = 0xD8932AAC#32 ∧ t.resCcsum = 0xD8932AAC#32 := by decide +kernel
/-- DV13: the payload bit is flipped, no error, CRC_OK = 0. -/
theorem test_cmdDecode_corrupted_payload :
    let t := after .cmdDecode (decodeOf (frame9.set 11 0x30#8) 20#17)
    statusWord t = 0x202#32 ∧ t.resHcsum = 0xCBF43926#32 ∧ t.resCcsum = 0xDC8F2D65#32 ∧ t.frmLen = 20#17 := by
  decide +kernel
/-- DV2, DV4, DV14 and DV8: the two errors at their boundary, and an unknown type. -/
theorem test_cmdDecode_checks :
    statusWord (after .cmdDecode (decodeOf (frame9.take 10) 10#17)) = 0x12#32 ∧
    statusWord (after .cmdDecode (decodeOf [0x02#8, 0x00#8, 0x00#8, 0x00#8, 0x01#8, 0x00#8, 0x01#8, 0x00#8,
      0x00#8, 0x00#8, 0x00#8] 11#17)) = 0x22#32 ∧
    statusWord (after .cmdDecode (decodeOf (frame9.set 6 0x0A#8) 20#17)) = 0x22#32 ∧
    statusWord (after .cmdDecode (decodeOf (frame9.set 0 0x07#8) 20#17)) = 0x102#32 := by decide +kernel

/-! ## Steps and reset (2.8, 2.9) -/

/-- QV2: irq is 0 while the command is pending and 1 after its completion. -/
theorem test_step_completion_raises_irq :
    let s := { decodeOf [] 0#17 with ie := true }
    s.irq = false ∧ (stepped s).irq = true := by decide
/-- ZV2: reset while busy, no partial header. -/
theorem test_step_reset_while_busy :
    let t := stepped (withEvents encodeHi [.reset])
    t.eng = .idle ∧ t.done = false ∧ t.frmLen = 0#17 ∧ t.buf = encodeHi.buf := by decide
theorem test_withFetchWord_runs_the_word :
    (stepped (State.reset.withFetchWord 24 0x080034)).resp = some ⟨0xFFFFFFFF#32, .ok⟩ ∧
    statusWord (stepped (State.reset.withFetchWord 32 0x00000011)) = 0x32#32 ∧
    statusWord (stepped (State.reset.withFetchWord 32 0x00000002)) = 0x12#32 := by decide

/-! ## Witnesses: the hypotheses of each statement can be met together -/

/-- ReadArgumentRegisters: RX_LEN at its largest legal value. -/
theorem witness_ReadArgumentRegisters : (decodeOf [] 65546#17).rxLen.toNat ≤ 65546 := by decide

/-- WriteStatusClearsWhereOne: each bit 1 and 0. -/
theorem witness_WriteStatusClearsWhereOne :
    (2#32 : Word).getLsbD 1 = true ∧ (2#32 : Word).getLsbD 2 = false ∧
    (4#32 : Word).getLsbD 1 = false ∧ (4#32 : Word).getLsbD 2 = true := by decide

/-- WriteArgumentRegisters, WriteCmdIssuesACommand, ReservedCommandIsBadCmd, PendingCommandKeepsItsOperands:
an idle and a busy engine, a defined and a reserved word. -/
theorem witness_WriteArgumentRegisters : State.reset.eng = .idle ∧ encodeHi.eng ≠ .idle := by decide
theorem witness_WriteCmdIssuesACommand :
    State.reset.eng = .idle ∧ encodeHi.eng ≠ .idle ∧ (1#32 : Word) = 1#32 ∧ (2#32 : Word) = 2#32 ∧
    (3#32 : Word) ≠ 1#32 ∧ (3#32 : Word) ≠ 2#32 := by decide
theorem witness_ReservedCommandIsBadCmd :
    (0#32 : Word) ≠ 1#32 ∧ (0#32 : Word) ≠ 2#32 ∧ (0xFFFFFFFF#32 : Word) ≠ 1#32 ∧
    (0xFFFFFFFF#32 : Word) ≠ 2#32 ∧ State.reset.eng = .idle ∧ encodeHi.eng ≠ .idle := by decide
theorem witness_PendingCommandKeepsItsOperands : encodeHi.eng ≠ .idle ∧ (decodeOf [] 0#17).eng ≠ .idle := by decide

/-- ReadBufReturnsTheByte: the last index written, and not written. -/
theorem witness_ReadBufReturnsTheByte :
    (65545#17 : Count).toNat < 65546 ∧
    Memory.read (bytesFrom 65545 [0x5A#8]) (65545#17 : Count).toNat = some 0x5A#8 ∧
    Memory.read State.reset.buf (65545#17 : Count).toNat = none := by decide

/-- WriteBufStoresOneByte: the last index, idle and busy, and another byte. -/
theorem witness_WriteBufStoresOneByte :
    (65545#17 : Count).toNat < 65546 ∧ State.reset.eng = .idle ∧ encodeHi.eng ≠ .idle ∧
    65544 ≠ (65545#17 : Count).toNat := by decide

/-- BusErrorChangesNothing: a transaction of each direction that R52 does not admit. -/
theorem witness_BusErrorChangesNothing :
    (Request.read .one 0x2000A#18).admitted = false ∧ (Request.write .four 0x3E#18 1#32).admitted = false := by decide

/-- BusErrorComesBeforeTheBusyCheck: a transaction just past the buffer while busy. -/
theorem witness_BusErrorComesBeforeTheBusyCheck :
    (withEvents encodeHi [.host (.write .one 0x2000A#18 0x55#32)]).events =
      .host (.write .one 0x2000A#18 0x55#32) :: [] ∧
    (Request.write .one 0x2000A#18 0x55#32).admitted = false := by decide

/-- EncodeWritesTheHeaderAndResults: the last payload byte, the last header byte, the first byte after. -/
theorem witness_EncodeWritesTheHeaderAndResults :
    encodeHi.eng = .busy .encode ∧ 1 < encodeHi.txLen.toNat ∧
    Memory.read encodeHi.buf (11 + 1) = some 0x69#8 ∧ 10 < 11 ∧ 11 ≤ 11 := by decide

/-- DecodeChecksAndParsesTheFrame: TOO_SHORT at RX_LEN = 10; at RX_LEN = 20 a length of 10 is too large and
one of 9 is not, whatever the unwritten bytes read as. -/
theorem witness_DecodeChecksAndParsesTheFrame :
    (decodeOf frame9 10#17).eng = .busy .decode ∧ (decodeOf frame9 10#17).rxLen.toNat < 11 ∧
    (∀ f, Memory.mayReadAs (decodeOf (frame9.set 6 0x0A#8) 20#17).buf f →
      11 ≤ (decodeOf (frame9.set 6 0x0A#8) 20#17).rxLen.toNat ∧
      (f 5 ++ f 6 : Half).toNat > (decodeOf (frame9.set 6 0x0A#8) 20#17).rxLen.toNat - 11) ∧
    (∀ f, Memory.mayReadAs (decodeOf frame9 20#17).buf f →
      11 ≤ (decodeOf frame9 20#17).rxLen.toNat ∧
      (f 5 ++ f 6 : Half).toNat ≤ (decodeOf frame9 20#17).rxLen.toNat - 11) ∧
    Memory.mayReadAs (decodeOf frame9 20#17).buf (fun i => (Memory.read (decodeOf frame9 20#17).buf i).getD 0#8) := by
  refine ⟨rfl, by decide, fun f hf => ⟨by decide, ?_⟩, fun f hf => ⟨by decide, ?_⟩, fun i b h => by simp [h]⟩ <;>
    · rw [hf 5 _ rfl, hf 6 _ rfl]; decide

/-- CompletionNotEnabledChangesNothing: idle, and the other command pending. -/
theorem witness_CompletionNotEnabledChangesNothing :
    State.reset.eng ≠ .busy .encode ∧ State.reset.eng ≠ .busy .decode ∧
    encodeHi.eng ≠ .busy .decode ∧ (decodeOf [] 0#17).eng ≠ .busy .encode := by decide

/-- CompletionSetsDoneAndFreesTheEngine: each command, and a completion with an error. -/
theorem witness_CompletionSetsDoneAndFreesTheEngine :
    encodeHi.eng = .busy .encode ∧ (decodeOf [] 10#17).eng = .busy .decode ∧
    (after (completionOf .decode) (decodeOf [] 10#17)).err ≠ 0#4 := by decide

theorem witness_ResetRestoresEveryRegisterButBuf :
    (withEvents encodeHi [.reset, .engine]).events = .reset :: [.engine] := by decide

theorem witness_ResetStateReadsTheResetColumn : Reg.crcOut ≠ Reg.crcAcc := by decide

/-- StepRunsThePresentedTransaction. -/
theorem witness_StepRunsThePresentedTransaction :
    (withEvents encodeHi [.host (.write .one 0x20009#18 0x5A#32)]).events =
      .host (.write .one 0x20009#18 0x5A#32) :: [] ∧
    decode (presentedBytes (.inl (.write .one 0x20009#18 0x5A#32))) = .ok (.wrBuf 65545#17 0x5A#32) :=
  ⟨rfl, rfl⟩

/-- StepRunsTheEnginesCompletion: no event left, and the engine's turn. -/
theorem witness_StepRunsTheEnginesCompletion :
    encodeHi.eng = .busy .encode ∧ encodeHi.engineTurn ∧
    (withEvents (decodeOf [] 0#17) [.engine, .reset]).eng = .busy .decode ∧
    (withEvents (decodeOf [] 0#17) [.engine, .reset]).engineTurn :=
  ⟨rfl, .inl rfl, rfl, .inr ⟨_, rfl⟩⟩

/-- PlacedTableWordRunsNext: a command, and an operation that is none. -/
theorem witness_PlacedTableWordRunsNext :
    decodeTableWord 32 0x00000002 = some .cmdDecode ∧ Instr.cmdDecode = completionOf .decode ∧
    decodeTableWord 32 0x00000011 = some (.cmdReserved 0x11#32) ∧
    (∀ c, Instr.cmdReserved 0x11#32 ≠ completionOf c) ∧
    decodeTableWord 24 0x020009 = some (.rdBuf 65545#17) ∧ (∀ c, Instr.rdBuf 65545#17 ≠ completionOf c) :=
  ⟨by decide, rfl, by decide, fun c => by cases c <;> decide, by decide, fun c => by cases c <;> decide⟩

theorem witness_DecodeOfEncodeIsTheOperation :
    (Instr.wrBuf 65545#17 0xFFFFFFFF#32).wellFormed = true ∧
    (Instr.busErr (.write .notPresentable 0x3FFFF#18 1#32)).wellFormed = true ∧
    (Instr.cmdReserved 3#32).wellFormed = true := by decide

/-- BusDecodeHasThreeCases: the first and last address of each window and those just outside. -/
theorem witness_BusDecodeHasThreeCases :
    ((0x3C#18 : BusAddr).toNat ≤ 0x3F ∧ (0x3C#18 : BusAddr).toNat % 4 = 0) ∧
    (0x10000 ≤ (0x10000#18 : BusAddr).toNat ∧ (0x10000#18 : BusAddr).toNat ≤ 0x20009) ∧
    (0x10000 ≤ (0x20009#18 : BusAddr).toNat ∧ (0x20009#18 : BusAddr).toNat ≤ 0x20009) ∧
    (¬(Size.four = .four ∧ (0x40#18 : BusAddr).toNat ≤ 0x3F ∧ (0x40#18 : BusAddr).toNat % 4 = 0) ∧
      ¬(Size.four = .one ∧ 0x10000 ≤ (0x40#18 : BusAddr).toNat ∧ (0x40#18 : BusAddr).toNat ≤ 0x20009)) ∧
    (¬(Size.one = .four ∧ (0x2000A#18 : BusAddr).toNat ≤ 0x3F ∧ (0x2000A#18 : BusAddr).toNat % 4 = 0) ∧
      ¬(Size.one = .one ∧ 0x10000 ≤ (0x2000A#18 : BusAddr).toNat ∧ (0x2000A#18 : BusAddr).toNat ≤ 0x20009)) ∧
    (¬(Size.four = .four ∧ (0x3E#18 : BusAddr).toNat ≤ 0x3F ∧ (0x3E#18 : BusAddr).toNat % 4 = 0) ∧
      ¬(Size.four = .one ∧ 0x10000 ≤ (0x3E#18 : BusAddr).toNat ∧ (0x3E#18 : BusAddr).toNat ≤ 0x20009)) := by
  decide

/-- HeaderDecodingInvertsEncoding: the header of EV2. -/
theorem witness_HeaderDecodingInvertsEncoding :
    ∃ f : Nat → Byte, ∀ k, k < 11 →
      (headerBytes ⟨0x02#8, 5#32, 2#16, 0xD8932AAC#32⟩)[k]? = some (f k) :=
  ⟨fun k => [0x02#8, 0x00#8, 0x00#8, 0x00#8, 0x05#8, 0x00#8, 0x02#8, 0xD8#8, 0x93#8, 0x2A#8, 0xAC#8].getD k 0#8,
    by decide⟩

theorem witness_CrcDetectsEveryOneByteChange : (0x31#8 : Byte) ≠ 0x30#8 := by decide

/-- CrcDetectsEveryBurstOf32Bits: the first and the last position of a burst of 32 differ. -/
theorem witness_CrcDetectsEveryBurstOf32Bits :
    let u : List Byte := [0x00#8, 0x00#8, 0x00#8, 0x00#8, 0x00#8]
    let v : List Byte := [0x02#8, 0x00#8, 0x00#8, 0x00#8, 0x01#8]
    u.length = v.length ∧ u ≠ v ∧
    ∀ i j, j < 8 → (u.getD i 0#8).getLsbD j ≠ (v.getD i 0#8).getLsbD j → 1 ≤ 8 * i + j ∧ 8 * i + j < 1 + 32 := by
  refine ⟨rfl, by decide, fun i j hj => ?_⟩
  match i with
  | 0 => revert j; decide
  | 1 => revert j; decide
  | 2 => revert j; decide
  | 3 => revert j; decide
  | 4 => revert j; decide
  | n + 5 => simp

/-- EveryStepKeepsTheInvariant: a pending ENCODE. -/
theorem witness_EveryStepKeepsTheInvariant : encodeHi.Inv ∧ step encodeHi = .next (stepped encodeHi) :=
  ⟨⟨by unfold State.bufOk; decide, by unfold State.rxLenLegal; decide, by unfold State.errLegal; decide,
    fun _ => by decide, by unfold State.typeFlagAgrees; decide, .inl (by decide)⟩, rfl⟩

/-- ReadsHaveNoSideEffect: a read of a written byte, and of a register. -/
theorem witness_ReadsHaveNoSideEffect :
    (∀ i, decodeRequest (.read .one 0x1000B#18) = .rdBuf i → Memory.read encodeHi.buf i.toNat ≠ none) ∧
    (∀ i, decodeRequest (.read .four 0x00004#18) = .rdBuf i → Memory.read encodeHi.buf i.toNat ≠ none) :=
  ⟨fun i h => by
      have : i = 11#17 := (Instr.rdBuf.inj ((show decodeRequest (.read .one 0x1000B#18) = .rdBuf 11#17 by
        decide).symm.trans h)).symm
      subst this; decide,
    fun i h => by cases (show decodeRequest (.read .four 0x00004#18) = .rdStatus by decide).symm.trans h⟩

/-- A busy engine to which the host presents a write of TX_LEN. -/
def droppedNext : State := withEvents encodeHi [.host (.write .four 0x14#18 3#32)]

/-- OvrIsSetByADroppedWriteOnly: the right side met. -/
theorem witness_OvrIsSetByADroppedWriteOnly :
    step droppedNext = .next (stepped droppedNext) ∧ droppedNext.ovr = false ∧ (stepped droppedNext).ovr = true :=
  ⟨rfl, rfl, by decide⟩

/-- OVR and DONE set, and the host presents a write of STATUS. -/
def ackNext : State := withEvents status306 [.host (.write .four 0x04#18 6#32)]

/-- OvrIsClearedByStatusWriteOrReset. -/
theorem witness_OvrIsClearedByStatusWriteOrReset :
    step ackNext = .next (stepped ackNext) ∧ ackNext.ovr = true ∧ (stepped ackNext).ovr = false :=
  ⟨rfl, rfl, by decide⟩

/-- DoneIsSetByCompletionOrBadCmd. -/
theorem witness_DoneIsSetByCompletionOrBadCmd :
    step (decodeOf [] 0#17) = .next (stepped (decodeOf [] 0#17)) ∧ (decodeOf [] 0#17).done = false ∧
    (stepped (decodeOf [] 0#17)).done = true :=
  ⟨rfl, rfl, by decide⟩

/-- DoneIsClearedByAcceptanceStatusWriteOrReset. -/
theorem witness_DoneIsClearedByAcceptanceStatusWriteOrReset :
    step ackNext = .next (stepped ackNext) ∧ ackNext.done = true ∧ (stepped ackNext).done = false :=
  ⟨rfl, rfl, by decide⟩

/-- A pending DECODE with the interrupt enabled (QV2). -/
def irqNext : State := { decodeOf [] 0#17 with ie := true }

/-- IrqRisesOnCompletionBadCmdOrEnable. -/
theorem witness_IrqRisesOnCompletionBadCmdOrEnable :
    step irqNext = .next (stepped irqNext) ∧ irqNext.irq = false ∧ (stepped irqNext).irq = true :=
  ⟨rfl, by decide, by decide⟩

/-- ResultsChangeOnlyOnSuccessOrReset: a step that changes them. -/
theorem witness_ResultsChangeOnlyOnSuccessOrReset :
    step encodeHi = .next (stepped encodeHi) ∧ (stepped encodeHi).frmLen ≠ encodeHi.frmLen :=
  ⟨rfl, by decide +kernel⟩

/-- BufChangesOnlyByWriteOrEncode: the last header byte, and the last byte of BUF written by the host. -/
theorem witness_BufChangesOnlyByWriteOrEncode :
    step encodeHi = .next (stepped encodeHi) ∧
    Memory.read (stepped encodeHi).buf 10 ≠ Memory.read encodeHi.buf 10 ∧
    Memory.read (stepped (withEvents State.reset [.host (.write .one 0x20009#18 0x5A#32)])).buf 65545 ≠
      Memory.read State.reset.buf 65545 :=
  ⟨rfl, by decide +kernel, by decide⟩

theorem witness_EngineLeavesCrcCtrlOvrAndArguments :
    encodeHi.eng = .busy .encode ∧ (decodeOf frame9 20#17).eng = .busy .decode ∧ 11 ≤ 11 := by decide

/-- EncodeDependsOnItsPayloadAlone: memories that differ at 0 and at 13. -/
theorem witness_EncodeDependsOnItsPayloadAlone :
    encodeHi.eng = .busy .encode ∧
    (∀ k, k < encodeHi.txLen.toNat → Memory.read encodeHi.buf (11 + k) =
      Memory.read [(0, 0x77#8), (11, 0x68#8), (12, 0x69#8)] (11 + k)) ∧ 10 < 11 := by decide

/-- DecodeDependsOnTheFrameAlone: each of its three cases, with memories that differ outside the bound. -/
theorem witness_DecodeDependsOnTheFrameAlone :
    ((decodeOf frame9 10#17).eng = .busy .decode ∧ (decodeOf frame9 10#17).rxLen.toNat < 11) ∧
    (Memory.read (decodeOf (frame9.set 6 0x0A#8) 20#17).buf 5 = some 0x00#8 ∧
      Memory.read [(5, 0x00#8), (6, 0x0A#8)] 5 = some 0x00#8 ∧
      Memory.read (decodeOf (frame9.set 6 0x0A#8) 20#17).buf 6 = some 0x0A#8 ∧
      Memory.read [(5, 0x00#8), (6, 0x0A#8)] 6 = some 0x0A#8 ∧
      (0x00#8 ++ 0x0A#8 : Half).toNat > (decodeOf (frame9.set 6 0x0A#8) 20#17).rxLen.toNat - 11) ∧
    (Memory.read (decodeOf frame9 25#17).buf 5 = some 0x00#8 ∧
      Memory.read (bytesFrom 0 (frame9 ++ [0xAA#8])) 5 = some 0x00#8 ∧
      Memory.read (decodeOf frame9 25#17).buf 6 = some 0x09#8 ∧
      Memory.read (bytesFrom 0 (frame9 ++ [0xAA#8])) 6 = some 0x09#8 ∧
      ∀ j, j < 11 + (0x00#8 ++ 0x09#8 : Half).toNat →
        Memory.read (decodeOf frame9 25#17).buf j = Memory.read (bytesFrom 0 (frame9 ++ [0xAA#8])) j) := by
  decide

/-- BusyIsLeftByCompletionOrReset: by completion, and by reset. -/
theorem witness_BusyIsLeftByCompletionOrReset :
    (encodeHi.eng = .busy .encode ∧ step encodeHi = .next (stepped encodeHi) ∧
      (stepped encodeHi).eng ≠ .busy .encode) ∧
    (step (withEvents encodeHi [.reset]) = .next (stepped (withEvents encodeHi [.reset])) ∧
      (stepped (withEvents encodeHi [.reset])).eng ≠ .busy .encode) :=
  ⟨⟨rfl, rfl, by decide⟩, rfl, by decide⟩

theorem witness_BusyEngineBecomesIdle : droppedNext.eng = .busy .encode ∧ droppedNext.events ≠ [] := by decide

/-- EncodeRefinesTheCodec: "hi". -/
theorem witness_EncodeRefinesTheCodec :
    encodeHi.eng = .busy .encode ∧ [0x68#8, 0x69#8].length = encodeHi.txLen.toNat ∧
    ∀ k, k < [0x68#8, 0x69#8].length → Memory.read encodeHi.buf (11 + k) = [0x68#8, 0x69#8][k]? := by decide

/-- DecodeRefinesTheCodec: a datagram for each outcome of the codec. -/
theorem witness_DecodeRefinesTheCodec :
    ((decodeOf frame9 20#17).eng = .busy .decode ∧ (decodeOf frame9 20#17).rxLen.toNat = min frame9.length 65546 ∧
      ∀ j, j < min frame9.length 65546 → Memory.read (decodeOf frame9 20#17).buf j = frame9[j]?) ∧
    (codecDecode (frame9.take 10) = .error .tooShort ∧
      (decodeOf (frame9.take 10) 10#17).rxLen.toNat = min (frame9.take 10).length 65546 ∧
      ∀ j, j < min (frame9.take 10).length 65546 →
        Memory.read (decodeOf (frame9.take 10) 10#17).buf j = (frame9.take 10)[j]?) ∧
    (codecDecode (frame9.take 19) = .error .truncatedPayload ∧
      (decodeOf (frame9.take 19) 19#17).rxLen.toNat = min (frame9.take 19).length 65546 ∧
      ∀ j, j < min (frame9.take 19).length 65546 →
        Memory.read (decodeOf (frame9.take 19) 19#17).buf j = (frame9.take 19)[j]?) :=
  ⟨by decide, ⟨rfl, by decide⟩, ⟨rfl, by decide⟩⟩

theorem read_bytesFrom (start j : Nat) (l : List Byte) : Memory.read (bytesFrom start l) (start + j) = l[j]? := by
  induction l generalizing start j with
  | nil => rfl
  | cons b rest ih =>
    cases j with
    | zero => simp [bytesFrom, Memory.read]
    | succ j =>
      rw [bytesFrom, Memory.read, if_neg (by omega), show start + (j + 1) = start + 1 + j by omega, ih]
      rfl

/-- DecodeRefinesTheCodec: a datagram longer than BUF, as in DV19, whose first 65546 bytes are stored and whose
RX_LEN is the clamp's. -/
theorem witness_DecodeRefinesTheCodec_oversized :
    let D := frame9 ++ List.replicate 69980 0x00#8
    let s := decodeOf (D.take 65546) 65546#17
    65546 < D.length ∧ s.eng = .busy .decode ∧ s.rxLen.toNat = min D.length 65546 ∧
    ∀ j, j < min D.length 65546 → Memory.read s.buf j = D[j]? := by
  intro D s
  have hD : D.length = 70000 := by simp only [D, List.length_append, List.length_replicate]; rfl
  refine ⟨by omega, rfl, by rw [hD]; rfl, fun j hj => ?_⟩
  have h := read_bytesFrom 0 j (D.take 65546)
  rw [Nat.zero_add] at h
  exact h.trans (List.getElem?_take_of_lt (by omega))

/-- DecodeAfterEncodeReturnsTheFrame: "hi", idle. -/
theorem witness_DecodeAfterEncodeReturnsTheFrame :
    ({ encodeHi with eng := .idle } : State).eng = .idle ∧
    [0x68#8, 0x69#8].length = ({ encodeHi with eng := .idle } : State).txLen.toNat ∧
    ∀ k, k < [0x68#8, 0x69#8].length →
      Memory.read ({ encodeHi with eng := .idle } : State).buf (11 + k) = [0x68#8, 0x69#8][k]? := by decide

/-- DecodeAfterEncodeOnEverySchedule: "hi", with polls before and after each completion and a write of STATUS
between the commands. -/
theorem witness_DecodeAfterEncodeOnEverySchedule :
    let first : List Event := [.host hostPoll, .engine, .host hostPoll]
    let second : List Event := [.host hostAckdone]
    let s := withEvents { encodeHi with eng := .idle } (.host (hostCmd .encode) :: first ++
      .host (hostWr .rxLen (BitVec.ofNat 32 (11 + 2))) :: second ++ .host (hostCmd .decode) :: first)
    s.eng = .idle ∧ [0x68#8, 0x69#8].length = s.txLen.toNat ∧
    (∀ k, k < [0x68#8, 0x69#8].length → Memory.read s.buf (11 + k) = [0x68#8, 0x69#8][k]?) ∧
    (∀ e, e ∈ first ++ second ++ first → e.quiet) ∧ .engine ∈ first := by
  refine ⟨rfl, rfl, by decide, fun e he => ?_, by decide⟩
  simp only [List.mem_append, List.mem_cons, List.not_mem_nil, or_false] at he
  rcases he with ((rfl | rfl | rfl) | rfl) | (rfl | rfl | rfl) <;>
    first | exact .inl rfl | exact .inr ⟨_, rfl, by decide⟩

end Sys2Proof.Tests
end

/-!
PROOFS. The statements of 00_scope.md: every accepted command completes (R5, R242), and ENCODE is the
source codec's encode (R2, R122).
-/
namespace Sys2Proof.Machine

/-! ## Whose turn it is, while a command is pending -/

theorem step_hostTurn {s : State} {req : Request} (h : s.hostTurn req) :
    step s = exec (decodeRequest req) (takeTurn s) := by
  obtain ⟨rest, hev⟩ := h
  simp [step, nextInstr, hev]

theorem step_resetTurn {s : State} (h : s.resetTurn) : step s = .next (resetBlock (takeTurn s)) := by
  obtain ⟨rest, hev⟩ := h
  simp [step, nextInstr, turnWithoutInstr, hev]

theorem engineInstr_busy (c : Command) : engineInstr (.busy c) = some (completionOf c) := by
  cases c <;> rfl

theorem step_engineTurn_busy {s : State} {c : Command} (hb : s.eng = .busy c) (h : s.engineTurn) :
    step s = exec (completionOf c) (takeTurn s) := by
  have hn : nextInstr s = some (completionOf c) := by
    obtain hev | ⟨rest, hev⟩ := h <;> simp [nextInstr, hev, hb, engineInstr_busy]
  simp [step, hn]

/-! ## What a host transaction keeps -/

@[simp] theorem issueCommand_events (w : Word) (s : State) : (issueCommand w s).events = s.events := by
  obtain ⟨-, c, h⟩ | ⟨-, -, h⟩ := issueCommand_cases w s <;> simp [h]

theorem WriteEffect.events_eq {s t : State} {i : Instr} (h : WriteEffect s i t) : t.events = s.events := by
  cases h with
  | cmd w => exact issueCommand_events w s
  | _ => rfl

/-- While a command is pending no register write moves the engine: CMD is argument state (R240). -/
theorem WriteEffect.eng_eq_of_busy {s t : State} {i : Instr} (h : WriteEffect s i t) (hb : s.eng ≠ .idle) :
    t.eng = s.eng := by
  cases h with
  | cmd w hidle => exact absurd hidle hb
  | _ => rfl

/-- A read inside BUF is answered with the byte drawn (R174). -/
theorem exec_rdBuf_inside {i : Count} (s : State) (hi : i.toNat < Config.frameCap) :
    exec (.rdBuf i) s = .next (answerRead (zext32 (drawByte s.buf i.toNat s.draws).1)
      { s with draws := (drawByte s.buf i.toNat s.draws).2 }) := if_pos hi

/-- A write inside BUF is dropped while a command is pending (R175, R240). -/
theorem exec_wrBuf_busy {i : Count} (w : Word) {s : State} (hb : s.eng ≠ .idle)
    (hi : i.toNat < Config.frameCap) : exec (.wrBuf i w) s = .next (answerWrite (dropWrite s)) := by
  rw [exec, execWrBuf, if_pos hi, writeArgument_busy hb]

theorem exec_busErr (req : Request) (s : State) : exec (.busErr req) s = .next (raiseBusError s) := rfl

/-- A host transaction is answered, takes no turn of another agent, and leaves a pending command pending
(R52, R240). -/
theorem exec_decodeRequest_busy (req : Request) {s : State} (hb : s.eng ≠ .idle) :
    ∃ t, exec (decodeRequest req) s = .next t ∧ t.eng = s.eng ∧ t.events = s.events := by
  obtain ⟨r, -, -, -, hd⟩ | ⟨r, -, w, -, -, hd⟩ | ⟨i, a, -, hi, hd⟩ | ⟨i, a, w, -, hi, hd⟩ | hd :=
    decodeRequest_cases req
  all_goals rw [hd]
  · exact ⟨_, exec_readOp r s, rfl, rfl⟩
  · obtain ⟨t, heff, hexec⟩ := exec_writeOp r w s
    exact ⟨_, hexec, heff.eng_eq_of_busy hb, heff.events_eq⟩
  · exact ⟨_, exec_rdBuf_inside s (bufIndex_below hi).2, rfl, rfl⟩
  · exact ⟨_, exec_wrBuf_busy w hb (bufIndex_below hi).2, rfl, rfl⟩
  · exact ⟨_, exec_busErr req s, rfl, rfl⟩

/-! ## Every accepted command completes -/

/-- A completion step ends the command it belongs to: ENG = IDLE and DONE set (R121). -/
theorem exec_completionOf_busy {s : State} {c : Command} (hb : s.eng = .busy c) :
    ∃ t, exec (completionOf c) s = .next t ∧ t.eng = .idle ∧ t.done = true := by
  cases c with
  | encode => exact ⟨_, by rw [completionOf, exec, execCmdEncode, hb], rfl, rfl⟩
  | decode => exact ⟨_, by rw [completionOf, exec, execCmdDecode, hb], rfl, rfl⟩

theorem State.runs_succ {s u t : State} {k : Nat} (h : step s = .next u) (hr : u.runs k t) :
    s.runs (k + 1) t := ⟨u, h, hr⟩

theorem State.runs_one {s t : State} (h : step s = .next t) : s.runs 1 t := State.runs_succ h rfl

/-- The engine's turn ends a pending command in one step. -/
theorem runs_one_of_engineTurn {s : State} {c : Command} (hb : s.eng = .busy c) (h : s.engineTurn) :
    ∃ t, s.runs 1 t ∧ t.eng = .idle ∧ t.done = true := by
  obtain ⟨t, hexec, hidle, hdone⟩ := exec_completionOf_busy (s := takeTurn s) hb
  exact ⟨t, State.runs_one ((step_engineTurn_busy hb h).trans hexec), hidle, hdone⟩

/-- Settles O54, by induction on the turns to come: the engine's turn (or no turn left) completes the
command, reset drops it, and a host transaction leaves it pending with one turn fewer. -/
theorem busyEngineBecomesIdle : Obligations.BusyEngineBecomesIdle := by
  intro s c hb
  induction hev : s.events generalizing s with
  | nil =>
    obtain ⟨t, hrun, hidle, hdone⟩ := runs_one_of_engineTurn hb (.inl hev)
    exact ⟨1, t, by simp, hrun, hidle, .inl hdone⟩
  | cons e rest ih =>
    cases e with
    | engine =>
      obtain ⟨t, hrun, hidle, hdone⟩ := runs_one_of_engineTurn hb (.inr ⟨rest, hev⟩)
      exact ⟨1, t, by simp, hrun, hidle, .inl hdone⟩
    | reset =>
      exact ⟨1, _, by simp, State.runs_one (step_resetTurn ⟨rest, hev⟩), rfl, .inr (by simp)⟩
    | host req =>
      obtain ⟨u, hexec, heng, hevu⟩ := exec_decodeRequest_busy req (s := takeTurn s) (by simp [hb])
      obtain ⟨k, t, hk, hrun, hidle, hend⟩ := ih u (by simp [heng, hb]) (by simp [hevu, hev])
      exact ⟨k + 1, t, by simpa using hk,
        State.runs_succ ((step_hostTurn ⟨rest, hev⟩).trans hexec) hrun, hidle, by simpa using hend⟩

/-! ## ENCODE and the codec -/

/-- The codec's frame header (R76): its length field is a payload's length, its checksum the payload's. -/
def encodeHeader (type : Byte) (seq : Word) (p : List Byte) : Header :=
  ⟨type, seq, BitVec.ofNat 16 p.length, crc32 p⟩

theorem encodeHeader_len_toNat (type : Byte) (seq : Word) {p : List Byte} (h : p.length < 2 ^ 16) :
    (encodeHeader type seq p).len.toNat = p.length := Nat.mod_eq_of_lt h

theorem codecEncode_eq (type : Byte) (seq : Word) (p : List Byte) :
    codecEncode type seq p = headerBytes (encodeHeader type seq p) ++ p := rfl

theorem codecEncode_length (type : Byte) (seq : Word) (p : List Byte) :
    (codecEncode type seq p).length = Config.hdrSize + p.length := by
  rw [codecEncode_eq, List.length_append, headerBytes_length]

/-- With its payload written, ENCODE writes the codec's header and commits it (R122). -/
theorem exec_cmdEncode_of_written {s : State} {p : List Byte} (hb : s.eng = .busy .encode)
    (hn : p.length = s.txLen.toNat)
    (hp : ∀ k, k < p.length → Memory.read s.buf (Config.hdrSize + k) = p[k]?) :
    exec .cmdEncode s = .next (finishCommand errNone
      (commitResults (encodeHeader s.txType s.txSeq p) (crc32 p)
        { s with buf := Memory.writeBytes s.buf 0 (headerBytes (encodeHeader s.txType s.txSeq p)) })) := by
  have hlen : s.txLen = BitVec.ofNat 16 p.length := by simp [hn]
  have hperf : performEncode s = commitResults (encodeHeader s.txType s.txSeq p) (crc32 p)
      { s with buf := Memory.writeBytes s.buf 0 (headerBytes (encodeHeader s.txType s.txSeq p)) } := by
    simp only [performEncode, drawBytes_of_list hn hp, encodeHeader, ← hlen]
  simp only [exec, execCmdEncode, hb, hperf]

/-- Bytes written below a range that holds `p` make one range that holds both. -/
theorem Memory.read_writeBytes_append {m : Memory} {bytes p : List Byte}
    (hp : ∀ k, k < p.length → Memory.read m (bytes.length + k) = p[k]?) {j : Nat}
    (hj : j < bytes.length + p.length) :
    Memory.read (Memory.writeBytes m 0 bytes) j = (bytes ++ p)[j]? := by
  by_cases h : j < bytes.length
  · rw [List.getElem?_append_left h]
    simpa using Memory.read_writeBytes_inside (m := m) (start := 0) h
  · obtain ⟨k, rfl⟩ : ∃ k, j = bytes.length + k := ⟨j - bytes.length, by omega⟩
    rw [Memory.read_writeBytes_outside _ (by omega), hp k (by omega),
      List.getElem?_append_right (by omega), Nat.add_sub_cancel_left]

/-- Settles O55: ENCODE writes the codec's header below the payload that is already in place. -/
theorem encodeRefinesTheCodec : Obligations.EncodeRefinesTheCodec := by
  intro s p hb hn hp
  have hlen : (encodeHeader s.txType s.txSeq p).len.toNat = p.length :=
    encodeHeader_len_toNat _ _ (hn ▸ s.txLen.isLt)
  refine ⟨_, exec_cmdEncode_of_written hb hn hp, rfl, ?_, fun j hj => ?_⟩
  · rw [finishCommand_frmLen, commitResults_frmLen_toNat, hlen, codecEncode_length]
  · rw [finishCommand_frmLen, commitResults_frmLen_toNat, hlen] at hj
    exact Memory.read_writeBytes_append hp hj

end Sys2Proof.Machine

/-!
PROOFS. The statements of 10_state.md: one step is a transition of one of the three agents (R20), said once
as an effect on the state; from it come the invariant (section 3) and what sets, clears and keeps each
flag, the result registers and BUF.
-/
namespace Sys2Proof.Machine

/-! ## Whose turn it is -/

theorem State.hostTurn.iff_eq {s : State} {req req' : Request} (h : s.hostTurn req) :
    s.hostTurn req' ↔ req' = req := by
  obtain ⟨rest, hev⟩ := h
  simp [State.hostTurn, hev, eq_comm]

theorem State.hostTurn.not_engineTurn {s : State} {req : Request} (h : s.hostTurn req) : ¬ s.engineTurn := by
  obtain ⟨rest, hev⟩ := h
  simp [State.engineTurn, hev]

theorem State.hostTurn.not_resetTurn {s : State} {req : Request} (h : s.hostTurn req) : ¬ s.resetTurn := by
  obtain ⟨rest, hev⟩ := h
  simp [State.resetTurn, hev]

theorem State.engineTurn.not_hostTurn {s : State} (h : s.engineTurn) (req : Request) : ¬ s.hostTurn req :=
  fun hhost => hhost.not_engineTurn h

theorem State.resetTurn.not_hostTurn {s : State} (h : s.resetTurn) (req : Request) : ¬ s.hostTurn req :=
  fun hhost => hhost.not_resetTurn h

theorem State.engineTurn.not_resetTurn {s : State} (h : s.engineTurn) : ¬ s.resetTurn := by
  rintro ⟨rest, hev⟩
  simp [State.engineTurn, hev] at h

theorem State.resetTurn.not_engineTurn {s : State} (h : s.resetTurn) : ¬ s.engineTurn :=
  fun hengine => hengine.not_resetTurn h

theorem takeTurn_of_no_events {s : State} (h : s.events = []) : takeTurn s = s := by
  cases s
  simp_all [takeTurn]

/-! ## What a host transaction can do to the block -/

/-- What the operation of a host transaction can do to a state, its response and the draws aside. -/
inductive HostEffect (s : State) : Instr → State → Prop where
  /-- A read, a bus error, or a write to CTRL, to the CRC unit or to a read-only register. -/
  | elsewhere {i : Instr} (ie : Bool) (crcAcc : Word) (harg : writesArgument i = false)
      (hstatus : ∀ w, i ≠ .wrStatus w) : HostEffect s i { s with ie := ie, crcAcc := crcAcc }
  | status (w : Word) : HostEffect s (.wrStatus w) (clearStatus w s)
  | dropped {i : Instr} (hbusy : s.eng ≠ .idle) (harg : writesArgument i = true) :
      HostEffect s i (dropWrite s)
  | argument {i : Instr} (type : Byte) (seq : Word) (len : Half) (count : Count) (hidle : s.eng = .idle)
      (harg : writesArgument i = true) (hcmd : ∀ w, i ≠ .wrCmd w)
      (hcount : s.rxLenLegal → count.toNat ≤ Config.frameCap) :
      HostEffect s i { s with txType := type, txSeq := seq, txLen := len, rxLen := count }
  | accepted (w : Word) (c : Command) (hidle : s.eng = .idle) (hw : w = 1#32 ∨ w = 2#32) :
      HostEffect s (.wrCmd w) (acceptCommand c s)
  | badCmd (w : Word) (hidle : s.eng = .idle) (hencode : w ≠ 1#32) (hdecode : w ≠ 2#32) :
      HostEffect s (.wrCmd w) (endCommand errBadCmd s)
  | buffer (i : Count) (w : Word) (hidle : s.eng = .idle) (hi : i.toNat < Config.frameCap) :
      HostEffect s (.wrBuf i w) { s with buf := Memory.write s.buf i.toNat (lowByte w) }

/-- No effect at all is the case of `elsewhere` that keeps IE and CRC_ACC. -/
theorem HostEffect.unchanged {s : State} {i : Instr} (harg : writesArgument i = false)
    (hstatus : ∀ w, i ≠ .wrStatus w) : HostEffect s i s := .elsewhere s.ie s.crcAcc harg hstatus

theorem clampedCount_le (w : Word) : (clampedCount w).toNat ≤ Config.frameCap := by
  simp only [clampedCount, BitVec.toNat_ofNat, Config.frameCap]
  omega

/-- The effects of register writes, among those of host transactions. -/
theorem WriteEffect.hostEffect {s t : State} {i : Instr} (h : WriteEffect s i t) : HostEffect s i t := by
  cases h with
  | ignored i hi =>
    obtain ⟨r, hr, rfl⟩ := List.mem_map.mp hi
    exact .unchanged (by revert r; simp [writeOp, writesArgument]) (by revert r; simp [writeOp])
  | ctrl w => exact .elsewhere (ieOf w) s.crcAcc rfl nofun
  | crcAcc w => exact .elsewhere s.ie w rfl nofun
  | crcData w => exact .elsewhere s.ie (crcStep s.crcAcc (lowByte w)) rfl nofun
  | status w => exact .status w
  | dropped i hbusy hi =>
    obtain ⟨r, hr, rfl⟩ := List.mem_map.mp hi
    exact .dropped hbusy (by revert r; simp [writeOp, writesArgument])
  | txType w hidle => exact .argument (lowByte w) s.txSeq s.txLen s.rxLen hidle rfl nofun id
  | txSeq w hidle => exact .argument s.txType w s.txLen s.rxLen hidle rfl nofun id
  | txLen w hidle => exact .argument s.txType s.txSeq (lowHalf w) s.rxLen hidle rfl nofun id
  | rxLen w hidle =>
    exact .argument s.txType s.txSeq s.txLen (clampedCount w) hidle rfl nofun fun _ => clampedCount_le w
  | cmd w hidle =>
    obtain ⟨hw, c, h⟩ | ⟨hencode, hdecode, h⟩ := issueCommand_cases w s
    · exact h ▸ .accepted w c hidle hw
    · exact h ▸ .badCmd w hidle hencode hdecode

/-- A write inside BUF stores its byte while no command is pending (R175). -/
theorem exec_wrBuf_idle {i : Count} (w : Word) {s : State} (hidle : s.eng = .idle)
    (hi : i.toNat < Config.frameCap) : exec (.wrBuf i w) s =
      .next (answerWrite { s with buf := Memory.write s.buf i.toNat (lowByte w) }) := by
  rw [exec, execWrBuf, if_pos hi, writeArgument_idle hidle]

/-- Every host transaction is answered after one of these effects (R52). -/
theorem exec_decodeRequest_effect (req : Request) (s : State) : ∃ t r d,
    HostEffect s (decodeRequest req) t ∧
      exec (decodeRequest req) s = .next { t with resp := r, draws := d } := by
  obtain ⟨r, -, -, -, hd⟩ | ⟨r, -, w, -, -, hd⟩ | ⟨i, a, -, hi, hd⟩ | ⟨i, a, w, -, hi, hd⟩ | hd :=
    decodeRequest_cases req
  all_goals rw [hd]
  · exact ⟨s, _, _, .unchanged (by cases r <;> rfl) (by cases r <;> nofun), exec_readOp r s⟩
  · obtain ⟨t, heff, hexec⟩ := exec_writeOp r w s
    exact ⟨t, _, _, heff.hostEffect, hexec⟩
  · exact ⟨s, _, _, .unchanged rfl nofun, exec_rdBuf_inside s (bufIndex_below hi).2⟩
  · by_cases hidle : s.eng = .idle
    · exact ⟨_, _, _, .buffer i w hidle (bufIndex_below hi).2, exec_wrBuf_idle w hidle (bufIndex_below hi).2⟩
    · exact ⟨_, _, _, .dropped hidle rfl, exec_wrBuf_busy w hidle (bufIndex_below hi).2⟩
  · exact ⟨s, _, _, .unchanged rfl nofun, exec_busErr req s⟩

/-! ## What the engine's turn can do to the block -/

/-- What the engine's turn can do to a state, the draws aside (R121 to R123). -/
inductive EngineEffect (s : State) : State → Prop where
  | idle (hidle : s.eng = .idle) : EngineEffect s s
  | encoded (h : Header) (m : Memory) (hbusy : s.eng = .busy .encode)
      (hread : ∀ j, 11 ≤ j → Memory.read m j = Memory.read s.buf j)
      (hwf : Memory.wf s.buf = true → Memory.wf m = true) :
      EngineEffect s (finishCommand errNone (commitResults h h.csum { s with buf := m }))
  | rejected (code : BitVec 4) (hbusy : s.eng = .busy .decode)
      (hcode : code = errTooShort ∨ code = errTruncated) : EngineEffect s (finishCommand code s)
  | decoded (h : Header) (k : Word) (hbusy : s.eng = .busy .decode) (hlen : 11 ≤ s.rxLen.toNat) :
      EngineEffect s (finishCommand errNone (commitResults h k s))

/-- A completion step has one of these effects. -/
theorem exec_completionOf_effect {s t : State} {c : Command} (hbusy : s.eng = .busy c)
    (h : exec (completionOf c) s = .next t) : ∃ u d, EngineEffect s u ∧ t = { u with draws := d } := by
  cases c with
  | encode =>
    obtain ⟨hd, m, d, rfl, hread, hwf⟩ := execCmdEncode_next h hbusy
    exact ⟨_, d, .encoded hd m hbusy hread hwf, rfl⟩
  | decode =>
    obtain ⟨code, d, hcode, rfl⟩ | ⟨hlen, hd, k, d, rfl⟩ := execCmdDecode_next h hbusy
    · exact ⟨_, d, .rejected code hbusy hcode, rfl⟩
    · exact ⟨_, d, .decoded hd k hbusy hlen, rfl⟩

/-! ## What a step can do -/

/-- What a step can do (R20): the transition of the agent whose turn it is, after the turn is taken off. -/
inductive StepEffect (s : State) : State → Prop where
  | host {req : Request} {t : State} (r : Option Response) (d : Nat) (hturn : s.hostTurn req)
      (heff : HostEffect (takeTurn s) (decodeRequest req) t) :
      StepEffect s { t with resp := r, draws := d }
  | engine {t : State} (d : Nat) (hturn : s.engineTurn) (heff : EngineEffect (takeTurn s) t) :
      StepEffect s { t with draws := d }
  | reset (hturn : s.resetTurn) : StepEffect s (resetBlock (takeTurn s))

theorem stepEffect_of_step {s t : State} (h : step s = .next t) : StepEffect s t := by
  obtain ⟨req, rest, hev, hs⟩ | ⟨hbusy, hturn, hs⟩ | ⟨hbusy, hturn, hs⟩ | ⟨rest, hev, hs⟩ |
    ⟨hidle, hev, hs⟩ | ⟨hidle, hturn, hs⟩ := step_turns s
  all_goals rw [hs] at h
  · obtain ⟨u, r, d, heff, hexec⟩ := exec_decodeRequest_effect req (takeTurn s)
    cases hexec.symm.trans h
    exact .host r d ⟨rest, hev⟩ heff
  · obtain ⟨u, d, heff, rfl⟩ := exec_completionOf_effect (s := takeTurn s) (c := .encode) hbusy h
    exact .engine d hturn heff
  · obtain ⟨u, d, heff, rfl⟩ := exec_completionOf_effect (s := takeTurn s) (c := .decode) hbusy h
    exact .engine d hturn heff
  · cases h
    exact .reset ⟨rest, hev⟩
  · cases h
    simpa [takeTurn_of_no_events hev] using StepEffect.engine s.draws (.inl hev) (.idle hidle)
  · cases h
    exact .engine s.draws (.inr hturn) (.idle hidle)

/-! ## The invariant -/

/-- The invariant speaks of the block's record only. -/
theorem State.Inv.of_sameBlock {s t : State} (hs : s.Inv) (h : t.sameBlock s) : t.Inv := by
  obtain ⟨hbuf, hrx, herr, hpend, htype, hres⟩ := h.symm ▸ hs
  exact ⟨hbuf, hrx, herr, hpend, htype, hres⟩

theorem HostEffect.keeps_inv {s t : State} {i : Instr} (h : HostEffect s i t) (hs : s.Inv) : t.Inv := by
  obtain ⟨hbuf, hrx, herr, hpend, htype, hres⟩ := hs
  cases h with
  | elsewhere => exact ⟨hbuf, hrx, herr, hpend, htype, hres⟩
  | status w =>
    exact ⟨hbuf, hrx, herr, fun hbusy => ⟨by simp [(hpend hbusy).1], (hpend hbusy).2⟩, htype, hres⟩
  | dropped => exact ⟨hbuf, hrx, herr, hpend, htype, hres⟩
  | argument _ _ _ _ _ _ _ hcount => exact ⟨hbuf, hcount hrx, herr, hpend, htype, hres⟩
  | accepted => exact ⟨hbuf, hrx, Nat.zero_le 3, fun _ => ⟨rfl, rfl⟩, htype, hres⟩
  | badCmd _ hidle => exact ⟨hbuf, hrx, Nat.le_refl 3, fun hbusy => absurd hidle hbusy, htype, hres⟩
  | buffer i w _ hi => exact ⟨Memory.write_keeps_wf _ hbuf hi, hrx, herr, hpend, htype, hres⟩

/-- A commit brings the type flag and the result registers in step, whatever they held. -/
theorem finishCommand_commitResults_inv {s : State} {h : Header} {k : Word} (hbuf : s.bufOk)
    (hrx : s.rxLenLegal) : (finishCommand errNone (commitResults h k s)).Inv where
  bufOk := hbuf
  rxLenLegal := hrx
  errLegal := Nat.zero_le 3
  pendingIsSilent := fun hbusy => absurd rfl hbusy
  typeFlagAgrees := rfl
  resultsAgree := .inr ⟨commitResults_frmLen_toNat h k s, rfl⟩

theorem EngineEffect.keeps_inv {s t : State} (h : EngineEffect s t) (hs : s.Inv) : t.Inv := by
  cases h with
  | idle => exact hs
  | encoded h m _ _ hwf => exact finishCommand_commitResults_inv (hwf hs.bufOk) hs.rxLenLegal
  | rejected code _ hcode =>
    have herr : code.toNat ≤ 3 := by rcases hcode with rfl | rfl <;> decide
    exact ⟨hs.bufOk, hs.rxLenLegal, herr, fun hbusy => absurd rfl hbusy, hs.typeFlagAgrees, hs.resultsAgree⟩
  | decoded h k => exact finishCommand_commitResults_inv hs.bufOk hs.rxLenLegal

theorem resetBlock_inv {s : State} (hbuf : s.bufOk) : (resetBlock s).Inv where
  bufOk := hbuf
  rxLenLegal := Nat.zero_le _
  errLegal := Nat.zero_le 3
  pendingIsSilent := fun hbusy => absurd rfl hbusy
  typeFlagAgrees := rfl
  resultsAgree := .inl ⟨rfl, rfl, rfl, rfl, rfl, rfl, rfl⟩

/-- Settles O40: the host's and the engine's effects keep the invariant, and reset establishes it again. -/
theorem everyStepKeepsTheInvariant : Obligations.EveryStepKeepsTheInvariant := by
  intro s t hs hstep
  have hs' : (takeTurn s).Inv := hs.of_sameBlock rfl
  cases stepEffect_of_step hstep with
  | host _ _ _ heff => exact (heff.keeps_inv hs').of_sameBlock rfl
  | engine _ _ heff => exact (heff.keeps_inv hs').of_sameBlock rfl
  | reset => exact resetBlock_inv hs'.bufOk

/-! ## STATUS is not argument state, and CMD is (R240) -/

theorem ne_wrStatus_of_writesArgument {i : Instr} (h : writesArgument i = true) (w : Word) :
    i ≠ .wrStatus w := by
  rintro rfl
  cases h

theorem ne_wrCmd_of_not_writesArgument {i : Instr} (h : writesArgument i = false) (w : Word) :
    i ≠ .wrCmd w := by
  rintro rfl
  cases h

/-! ## STATUS.OVR -/

theorem HostEffect.ovr_set_iff {s t : State} {i : Instr} (h : HostEffect s i t) (hovr : s.ovr = false) :
    t.ovr = true ↔ s.eng ≠ .idle ∧ writesArgument i = true := by
  cases h with
  | elsewhere _ _ harg => simp [hovr, harg]
  | status w => simp [hovr, writesArgument]
  | dropped hbusy harg => simp [hbusy, harg]
  | argument _ _ _ _ hidle => simp [hovr, hidle]
  | accepted _ _ hidle => simp [hovr, hidle]
  | badCmd _ hidle => simp [hovr, hidle]
  | buffer _ _ hidle => simp [hovr, hidle]

theorem HostEffect.ovr_cleared_iff {s t : State} {i : Instr} (h : HostEffect s i t) (hovr : s.ovr = true) :
    t.ovr = false ↔ ∃ w, i = .wrStatus w ∧ w.getLsbD 2 = true := by
  cases h with
  | elsewhere _ _ _ hstatus => simp [hovr, hstatus]
  | status w => simp [hovr, clearsOvr]
  | dropped _ harg => simp [ne_wrStatus_of_writesArgument harg]
  | argument _ _ _ _ _ harg => simp [hovr, ne_wrStatus_of_writesArgument harg]
  | accepted => simp [hovr]
  | badCmd => simp [hovr]
  | buffer => simp [hovr]

theorem EngineEffect.ovr_eq {s t : State} (h : EngineEffect s t) : t.ovr = s.ovr := by
  cases h <;> rfl

/-- Settles O43: on the host's turn OVR is set by a dropped write alone, and no other agent sets it. -/
theorem ovrIsSetByADroppedWriteOnly : Obligations.OvrIsSetByADroppedWriteOnly := by
  intro s t hstep hovr
  cases stepEffect_of_step hstep with
  | host _ _ hturn heff => simpa [hturn.iff_eq] using heff.ovr_set_iff hovr
  | engine _ hturn heff => simp [hturn.not_hostTurn, heff.ovr_eq, hovr]
  | reset hturn => simp [hturn.not_hostTurn, State.reset]

/-- Settles O44: on the host's turn OVR is cleared by a STATUS write alone, the engine leaves it, and reset
clears it. -/
theorem ovrIsClearedByStatusWriteOrReset : Obligations.OvrIsClearedByStatusWriteOrReset := by
  intro s t hstep hovr
  cases stepEffect_of_step hstep with
  | host _ _ hturn heff => simpa [hturn.iff_eq, hturn.not_resetTurn] using heff.ovr_cleared_iff hovr
  | engine _ hturn heff => simp [hturn.not_hostTurn, hturn.not_resetTurn, heff.ovr_eq, hovr]
  | reset hturn => simp [hturn, State.reset]

/-! ## STATUS.DONE -/

theorem HostEffect.done_set_iff {s t : State} {i : Instr} (h : HostEffect s i t) (hdone : s.done = false) :
    t.done = true ↔ s.eng = .idle ∧ ∃ w, i = .wrCmd w ∧ w ≠ 1#32 ∧ w ≠ 2#32 := by
  cases h with
  | elsewhere _ _ harg => simp [hdone, ne_wrCmd_of_not_writesArgument harg]
  | status => simp [hdone]
  | dropped hbusy => simp [hdone, hbusy]
  | argument _ _ _ _ _ _ hcmd => simp [hdone, hcmd]
  | accepted _ _ _ hw => rcases hw with rfl | rfl <;> simp
  | badCmd _ hidle hencode hdecode => simp [hidle, hencode, hdecode]
  | buffer => simp [hdone]

theorem HostEffect.done_cleared_iff {s t : State} {i : Instr} (h : HostEffect s i t) (hdone : s.done = true) :
    t.done = false ↔ (∃ w, i = .wrStatus w ∧ w.getLsbD 1 = true) ∨
      (s.eng = .idle ∧ ∃ w, i = .wrCmd w ∧ (w = 1#32 ∨ w = 2#32)) := by
  cases h with
  | elsewhere _ _ harg hstatus => simp [hdone, hstatus, ne_wrCmd_of_not_writesArgument harg]
  | status => simp [hdone, clearsDone]
  | dropped hbusy harg => simp [hdone, hbusy, ne_wrStatus_of_writesArgument harg]
  | argument _ _ _ _ _ harg hcmd => simp [hdone, hcmd, ne_wrStatus_of_writesArgument harg]
  | accepted _ _ hidle hw => simpa [hidle] using hw
  | badCmd _ _ hencode hdecode => simp [hencode, hdecode]
  | buffer => simp [hdone]

theorem EngineEffect.done_iff {s t : State} (h : EngineEffect s t) :
    t.done = true ↔ s.done = true ∨ ∃ c, s.eng = .busy c := by
  cases h with
  | idle hidle => simp [hidle]
  | encoded _ _ hbusy => simp [hbusy]
  | rejected _ hbusy => simp [hbusy]
  | decoded _ _ hbusy => simp [hbusy]

/-- Settles O45: on the host's turn DONE is set by a reserved command word alone, on the engine's by a
completion, and reset clears it. -/
theorem doneIsSetByCompletionOrBadCmd : Obligations.DoneIsSetByCompletionOrBadCmd := by
  intro s t hstep hdone
  cases stepEffect_of_step hstep with
  | host _ _ hturn heff => simpa [hturn.iff_eq, hturn.not_engineTurn] using heff.done_set_iff hdone
  | engine _ hturn heff => simpa [hturn, hturn.not_hostTurn, hdone] using heff.done_iff
  | reset hturn => simp [hturn.not_hostTurn, hturn.not_engineTurn, State.reset]

/-- Settles O46: on the host's turn DONE is cleared by a STATUS write or an acceptance, the engine never
clears it, and reset does. -/
theorem doneIsClearedByAcceptanceStatusWriteOrReset :
    Obligations.DoneIsClearedByAcceptanceStatusWriteOrReset := by
  intro s t hstep hdone
  cases stepEffect_of_step hstep with
  | host _ _ hturn heff => simpa [hturn.iff_eq, hturn.not_resetTurn] using heff.done_cleared_iff hdone
  | engine _ hturn heff => simp [hturn.not_hostTurn, hturn.not_resetTurn, heff.done_iff.mpr (.inl hdone)]
  | reset hturn => simp [hturn, State.reset]

/-! ## The result registers and flags -/

theorem HostEffect.sameResults {s t : State} {i : Instr} (h : HostEffect s i t) : s.sameResults t := by
  cases h <;> exact ⟨rfl, rfl, rfl, rfl, rfl, rfl, rfl, rfl⟩

theorem EngineEffect.sameResults_or_success {s t : State} (h : EngineEffect s t) : s.sameResults t ∨
    (t.err = 0#4 ∧ (s.eng = .busy .encode ∨ (s.eng = .busy .decode ∧ 11 ≤ s.rxLen.toNat))) := by
  cases h with
  | idle | rejected => exact .inl ⟨rfl, rfl, rfl, rfl, rfl, rfl, rfl, rfl⟩
  | encoded _ _ hbusy => exact .inr ⟨rfl, .inl hbusy⟩
  | decoded _ _ hbusy hlen => exact .inr ⟨rfl, .inr ⟨hbusy, hlen⟩⟩

/-- Settles O48: no host transaction writes a result, and the engine does only when its command succeeds. -/
theorem resultsChangeOnlyOnSuccessOrReset : Obligations.ResultsChangeOnlyOnSuccessOrReset := by
  intro s t hstep
  cases stepEffect_of_step hstep with
  | host _ _ _ heff => exact .inl heff.sameResults
  | engine _ hturn heff => exact heff.sameResults_or_success.imp id fun hsuccess => .inr ⟨hturn, hsuccess⟩
  | reset hturn => exact .inr (.inl hturn)

/-! ## BUF -/

theorem HostEffect.buf_change {s t : State} {i : Instr} {j : Nat} (h : HostEffect s i t)
    (hj : Memory.read t.buf j ≠ Memory.read s.buf j) :
    s.eng = .idle ∧ ∃ k w, i = .wrBuf k w ∧ k.toNat = j := by
  cases h with
  | buffer k w hidle =>
    have hk : k.toNat = j :=
      Decidable.byContradiction fun hne => hj (Memory.read_write_other _ _ (Ne.symm hne))
    exact ⟨hidle, k, w, rfl, hk⟩
  | _ => exact absurd rfl hj

theorem EngineEffect.buf_change {s t : State} {j : Nat} (h : EngineEffect s t)
    (hj : Memory.read t.buf j ≠ Memory.read s.buf j) : s.eng = .busy .encode ∧ j < 11 := by
  cases h with
  | encoded _ _ hbusy hread => exact ⟨hbusy, Nat.lt_of_not_le fun hle => hj (hread j hle)⟩
  | _ => exact absurd rfl hj

/-- Settles O49: the host's buffer write and ENCODE's header are the two effects that reach BUF. -/
theorem bufChangesOnlyByWriteOrEncode : Obligations.BufChangesOnlyByWriteOrEncode := by
  intro s t j hstep hj
  cases stepEffect_of_step hstep with
  | host _ _ hturn heff =>
    obtain ⟨hidle, k, w, hi, hk⟩ := heff.buf_change hj
    exact .inl ⟨hidle, _, k, w, hturn, hi, hk⟩
  | engine _ hturn heff =>
    obtain ⟨hbusy, hlt⟩ := heff.buf_change hj
    exact .inr ⟨hbusy, hturn, hlt⟩
  | reset => exact absurd rfl hj

/-! ## The reset state, and what a step runs -/

/-- Settles O23: each register reads its reset value, and no byte of BUF is listed. -/
theorem resetStateReadsTheResetColumn : Obligations.ResetStateReadsTheResetColumn := by
  refine ⟨fun r hr => ?_, by decide, rfl, rfl, fun _ => rfl⟩
  cases r with
  | crcAcc => exact absurd rfl hr
  | _ => decide

theorem readOp_ne_busErr (r : Reg) (req : Request) : readOp r ≠ .busErr req := by
  cases r <;> nofun

theorem writeOp_ne_busErr (r : Reg) (w : Word) (req : Request) : writeOp r w ≠ .busErr req := by
  cases r <;> nofun

/-- BUS_ERR is the decode of no transaction that R52 admits. -/
theorem not_admitted_of_busErr {req : Request} (h : decodeRequest req = .busErr req) :
    req.admitted = false := by
  match req with
  | .read .four a =>
    cases hr : regAt a with
    | none => simp [Request.admitted, admits, ← regAt_isSome, hr]
    | some r => simp [decodeRequest, hr, readOp_ne_busErr] at h
  | .write .four a w =>
    cases hr : regAt a with
    | none => simp [Request.admitted, admits, ← regAt_isSome, hr]
    | some r => simp [decodeRequest, hr, writeOp_ne_busErr] at h
  | .read .one a =>
    cases hi : bufIndex a with
    | none => simp [Request.admitted, admits, ← bufIndex_isSome, hi]
    | some i => simp [decodeRequest, hi] at h
  | .write .one a w =>
    cases hi : bufIndex a with
    | none => simp [Request.admitted, admits, ← bufIndex_isSome, hi]
    | some i => simp [decodeRequest, hi] at h
  | .read .two _ | .read .notPresentable _ | .write .two _ _ | .write .notPresentable _ _ => rfl

/-- The bus decode gives operations only (R52). -/
theorem decodeRequest_wellFormed (req : Request) : (decodeRequest req).wellFormed = true := by
  obtain ⟨r, -, -, -, hd⟩ | ⟨r, -, w, -, -, hd⟩ | ⟨i, a, -, hi, hd⟩ | ⟨i, a, w, -, hi, hd⟩ | hd :=
    decodeRequest_cases req
  all_goals rw [hd]
  · cases r <;> rfl
  · cases r <;> rfl
  · exact decide_eq_true (bufIndex_below hi).2
  · exact decide_eq_true (bufIndex_below hi).2
  · simp [Instr.wellFormed, not_admitted_of_busErr hd]

/-- Settles O24: the byte image of a transaction decodes to the bus decode of it. -/
theorem stepRunsThePresentedTransaction : Obligations.StepRunsThePresentedTransaction := by
  intro s req rest i hev hdec
  rw [decode_presentedBytes] at hdec
  cases hdec
  exact ⟨decodeRequest_wellFormed req, by simp [decodePresented, step_hostTurn ⟨rest, hev⟩, takeTurn, hev]⟩

/-- Settles O25: a command's word decodes to its completion, and on the engine's turn the step runs that. -/
theorem stepRunsTheEnginesCompletion : Obligations.StepRunsTheEnginesCompletion := by
  intro s c hbusy hturn
  refine ⟨?_, step_engineTurn_busy hbusy hturn⟩
  rw [decode_presentedBytes]
  cases c <;> rfl

end Sys2Proof.Machine

/-!
PROOFS. The statements of 20_memory.md: the bus decode and the command map (R52, R72), no stop (R52), reads
without a side effect (R57), and a pending command's operands and end (R61, R64, R66).
-/
namespace Sys2Proof.Machine

/-! ## The bus decode (R52) -/

theorem offset_of_regAt {a : BusAddr} {r : Reg} (h : regAt a = some r) : Config.offset r = a := by
  unfold regAt at h
  split at h <;> cases h <;> rfl

theorem bufAddr_of_bufIndex {a : BusAddr} {i : Count} (h : bufIndex a = some i) : bufAddr i = a := by
  have hwindow : 0x10000 ≤ a.toNat ∧ a.toNat ≤ 0x20009 := by
    simpa [inBufWindow, h] using bufIndex_isSome a
  apply BitVec.eq_of_toNat_eq
  rw [bufAddr_toNat, (bufIndex_below h).1]
  omega

theorem exists_regAt_of_aligned {a : BusAddr} (hlast : a.toNat ≤ 0x3F) (halign : a.toNat % 4 = 0) :
    ∃ r, regAt a = some r :=
  Option.isSome_iff_exists.mp (by simp [regAt_isSome, inRegWindow, hlast, halign])

theorem exists_bufIndex_of_window {a : BusAddr} (hfirst : 0x10000 ≤ a.toNat) (hlast : a.toNat ≤ 0x20009) :
    ∃ i, bufIndex a = some i :=
  Option.isSome_iff_exists.mp (by simp [bufIndex_isSome, inBufWindow, hfirst, hlast])

theorem admits_iff (size : Size) (a : BusAddr) : admits size a = true ↔
    (size = .four ∧ a.toNat ≤ 0x3F ∧ a.toNat % 4 = 0) ∨
      (size = .one ∧ 0x10000 ≤ a.toNat ∧ a.toNat ≤ 0x20009) := by
  cases size <;> simp [admits, inRegWindow, inBufWindow]

/-- Settles O30: the register map and the buffer window cover what R52 admits, and the rest is BUS_ERR. -/
theorem busDecodeHasThreeCases : Obligations.BusDecodeHasThreeCases := by
  refine ⟨fun a hlast halign => ?_, fun a hfirst hlast => ?_, fun a size hreg hbuf => ?_⟩
  · obtain ⟨r, hr⟩ := exists_regAt_of_aligned hlast halign
    exact ⟨r, offset_of_regAt hr, by simp [decodeRequest, hr], by simp [decodeRequest, hr]⟩
  · obtain ⟨i, hi⟩ := exists_bufIndex_of_window hfirst hlast
    exact ⟨i, (bufIndex_below hi).1, by simp [decodeRequest, hi], by simp [decodeRequest, hi]⟩
  · have hadmits : admits size a = false :=
      Bool.eq_false_iff.mpr fun h => ((admits_iff size a).mp h).elim hreg hbuf
    exact ⟨decodeRequest_of_not_admitted hadmits, fun _ => decodeRequest_of_not_admitted hadmits⟩

/-! ## The encoder inverts the decoders (R52, R72) -/

theorem operationOf_readOp (r : Reg) : operationOf (readOp r) = .inl (.read .four (Config.offset r)) := by
  cases r <;> rfl

theorem operationOf_writeOp (r : Reg) (w : Word) :
    operationOf (writeOp r w) = .inl (.write .four (Config.offset r) w) := by
  cases r <;> rfl

theorem operationOf_decodeRequest (req : Request) : operationOf (decodeRequest req) = .inl req := by
  obtain ⟨r, a, rfl, hr, hd⟩ | ⟨r, a, w, rfl, hr, hd⟩ | ⟨i, a, rfl, hi, hd⟩ | ⟨i, a, w, rfl, hi, hd⟩ | hd :=
    decodeRequest_cases req
  all_goals rw [hd]
  · rw [operationOf_readOp, offset_of_regAt hr]
  · rw [operationOf_writeOp, offset_of_regAt hr]
  · rw [operationOf, bufAddr_of_bufIndex hi]
  · rw [operationOf, bufAddr_of_bufIndex hi]
  · rfl

/-- The command map: the two defined words, and every other one as reserved (R72). -/
theorem decodeCommand_cases (w : Word) :
    (w = 1#32 ∧ decodeCommand w = .cmdEncode) ∨ (w = 2#32 ∧ decodeCommand w = .cmdDecode) ∨
      (definedCommandWord w = false ∧ decodeCommand w = .cmdReserved w) := by
  by_cases hencode : w = 1#32
  · exact .inl ⟨hencode, hencode ▸ rfl⟩
  · by_cases hdecode : w = 2#32
    · exact .inr (.inl ⟨hdecode, hdecode ▸ rfl⟩)
    · exact .inr (.inr ⟨by simp [definedCommandWord, hencode, hdecode],
        by simp [decodeCommand, commandOf, hencode, hdecode]⟩)

theorem decodeCommand_wellFormed (w : Word) : (decodeCommand w).wellFormed = true := by
  obtain ⟨-, hd⟩ | ⟨-, hd⟩ | ⟨hw, hd⟩ := decodeCommand_cases w
  all_goals rw [hd]
  · rfl
  · rfl
  · simp [Instr.wellFormed, hw]

theorem operationOf_decodeCommand (w : Word) : operationOf (decodeCommand w) = .inr w := by
  obtain ⟨rfl, hd⟩ | ⟨rfl, hd⟩ | ⟨-, hd⟩ := decodeCommand_cases w
  all_goals rw [hd, operationOf]

/-- Settles O29: a transaction through the bus decode, a command word through the command map. -/
theorem everyPresentedWordHasOneMeaning : Obligations.EveryPresentedWordHasOneMeaning := by
  rintro (req | w)
  · exact ⟨decodeRequest_wellFormed req, operationOf_decodeRequest req⟩
  · exact ⟨decodeCommand_wellFormed w, operationOf_decodeCommand w⟩

/-! ## Nothing stops the machine (R52) -/

/-- Settles O27: the agent whose turn it is has a next state, be it the host, the engine or reset. -/
theorem everyStepAnswersANextState : Obligations.EveryStepAnswersANextState := by
  intro s
  obtain ⟨req, -, -, hs⟩ | ⟨hbusy, -, hs⟩ | ⟨hbusy, -, hs⟩ | ⟨-, -, hs⟩ | ⟨-, -, hs⟩ | ⟨-, -, hs⟩ :=
    step_turns s
  all_goals rw [hs]
  · obtain ⟨t, r, d, -, hexec⟩ := exec_decodeRequest_effect req (takeTurn s)
    exact ⟨_, hexec⟩
  · obtain ⟨t, hexec, -⟩ := exec_completionOf_busy (s := takeTurn s) (c := .encode) hbusy
    exact ⟨t, hexec⟩
  · obtain ⟨t, hexec, -⟩ := exec_completionOf_busy (s := takeTurn s) (c := .decode) hbusy
    exact ⟨t, hexec⟩
  · exact ⟨_, rfl⟩
  · exact ⟨_, rfl⟩
  · exact ⟨_, rfl⟩

/-! ## Reads (R57) -/

/-- No register's value depends on the last response. -/
@[simp] theorem readValue_answerRead (r : Reg) (v : Word) (s : State) :
    readValue r (answerRead v s) = readValue r s := by
  cases r <;> rfl

@[simp] theorem answerRead_answerRead (v w : Word) (s : State) :
    answerRead v (answerRead w s) = answerRead v s := rfl

/-- A written byte is read without a draw, so without any change but the response (R174). -/
theorem exec_rdBuf_of_written {i : Count} {s : State} {b : Byte} (hi : i.toNat < Config.frameCap)
    (hb : Memory.read s.buf i.toNat = some b) :
    exec (.rdBuf i) s = .next (answerRead (zext32 b) s) := by
  rw [exec_rdBuf_inside s hi, drawByte_of_written hb]

/-- Settles O41: a register read and a bus error answer from state they leave, and so does the read of a
written byte. -/
theorem readsHaveNoSideEffect : Obligations.ReadsHaveNoSideEffect := by
  intro s size a
  obtain ⟨r, -, -, -, hd⟩ | ⟨_, _, _, hreq, -⟩ | ⟨i, a, -, hi, hd⟩ | ⟨_, _, _, hreq, -⟩ | hd :=
    decodeRequest_cases (.read size a)
  · rw [hd]
    exact ⟨_, exec_readOp r s, rfl, fun _ => by simp [exec_readOp]⟩
  · cases hreq
  · rw [hd]
    refine ⟨_, exec_rdBuf_inside s (bufIndex_below hi).2, rfl, fun hwritten => ?_⟩
    obtain ⟨b, hb⟩ := Option.ne_none_iff_exists'.mp (hwritten i rfl)
    rw [drawByte_of_written hb]
    exact exec_rdBuf_of_written (s := answerRead (zext32 b) s) (bufIndex_below hi).2 hb
  · cases hreq
  · rw [hd]
    exact ⟨_, exec_busErr _ s, rfl, fun _ => rfl⟩

/-! ## A pending command before its end (R61, R64) -/

theorem HostEffect.sameArguments_of_busy {s t : State} {i : Instr} (h : HostEffect s i t)
    (hbusy : s.eng ≠ .idle) : s.sameArguments t := by
  cases h with
  | elsewhere | status | dropped => exact ⟨rfl, rfl, rfl, rfl, rfl⟩
  | argument _ _ _ _ hidle | accepted _ _ hidle | badCmd _ hidle | buffer _ _ hidle =>
    exact absurd hidle hbusy

/-- No write to CMD is taken while a command is pending, so neither ENG nor ERR moves. -/
theorem HostEffect.eng_err_of_busy {s t : State} {i : Instr} (h : HostEffect s i t)
    (hbusy : s.eng ≠ .idle) : t.eng = s.eng ∧ t.err = s.err := by
  cases h with
  | elsewhere | status | dropped => exact ⟨rfl, rfl⟩
  | argument _ _ _ _ hidle | accepted _ _ hidle | badCmd _ hidle | buffer _ _ hidle =>
    exact absurd hidle hbusy

theorem HostEffect.done_of_busy {s t : State} {i : Instr} (h : HostEffect s i t) (hbusy : s.eng ≠ .idle)
    (hdone : t.done = true) : s.done = true := by
  cases hs : s.done with
  | true => rfl
  | false => exact absurd ((h.done_set_iff hs).mp hdone).1 hbusy

/-- Settles O42: the host's effects on argument state, ENG and ERR all need an idle engine, and no host
transaction writes a result. -/
theorem pendingCommandKeepsItsOperands : Obligations.PendingCommandKeepsItsOperands := by
  intro s req hbusy
  obtain ⟨t, r, d, heff, hexec⟩ := exec_decodeRequest_effect req s
  obtain ⟨heng, herr⟩ := heff.eng_err_of_busy hbusy
  exact ⟨_, hexec, heff.sameArguments_of_busy hbusy, heff.sameResults, heng, herr, heff.done_of_busy hbusy⟩

/-! ## A pending command's end (R47, R61, R66) -/

/-- What the engine's turn leaves: the CRC unit, CTRL, OVR, the argument registers and the model's own
response and turns (R66, R110). -/
theorem EngineEffect.frame {s t : State} (h : EngineEffect s t) :
    t.crcAcc = s.crcAcc ∧ t.ie = s.ie ∧ t.txType = s.txType ∧ t.txSeq = s.txSeq ∧ t.txLen = s.txLen ∧
      t.rxLen = s.rxLen ∧ t.resp = s.resp ∧ t.events = s.events := by
  cases h <;> exact ⟨rfl, rfl, rfl, rfl, rfl, rfl, rfl, rfl⟩

theorem EngineEffect.buf_eq_of_decode {s t : State} (h : EngineEffect s t) (hbusy : s.eng = .busy .decode) :
    t.buf = s.buf := by
  cases h with
  | encoded _ _ hencode => cases hencode.symm.trans hbusy
  | _ => rfl

theorem EngineEffect.read_buf_payload {s t : State} (h : EngineEffect s t) {j : Nat} (hj : 11 ≤ j) :
    Memory.read t.buf j = Memory.read s.buf j :=
  Decidable.byContradiction fun hne => Nat.not_lt.mpr hj (h.buf_change hne).2

/-- Settles O50: a completion step has one of the engine's effects, and none reaches outside R66's list. -/
theorem engineLeavesCrcCtrlOvrAndArguments : Obligations.EngineLeavesCrcCtrlOvrAndArguments := by
  intro s c hbusy
  obtain ⟨t, hexec, -⟩ := exec_completionOf_busy hbusy
  obtain ⟨u, d, heff, rfl⟩ := exec_completionOf_effect hbusy hexec
  obtain ⟨hcrc, hie, htype, hseq, hlen, hrx, hresp, hev⟩ := heff.frame
  exact ⟨_, hexec, hcrc, hie, heff.ovr_eq, htype, hseq, hlen, hrx, hresp, hev,
    fun hc => heff.buf_eq_of_decode (hc ▸ hbusy), fun _ hj => heff.read_buf_payload hj⟩

/-- Settles O53: the host leaves a pending command pending, so the step that ends it is the engine's, which
completes it, or reset. -/
theorem busyIsLeftByCompletionOrReset : Obligations.BusyIsLeftByCompletionOrReset := by
  intro s t c hbusy hstep hleft
  cases stepEffect_of_step hstep with
  | host _ _ _ heff =>
    have heng := (heff.eng_err_of_busy (by simp [hbusy])).1
    exact absurd (heng.trans hbusy) hleft
  | engine _ hturn _ =>
    have hrun := step_engineTurn_busy hbusy hturn
    obtain ⟨u, hexec, hidle, hdone⟩ := exec_completionOf_busy (s := takeTurn s) hbusy
    cases (hrun.trans hexec).symm.trans hstep
    exact ⟨hidle, .inr ⟨hturn, hdone, hrun⟩⟩
  | reset hturn => exact ⟨rfl, .inl hturn⟩

end Sys2Proof.Machine

/-!
PROOFS. The statements of 30_encoding.md: operations and their byte image (R70, R72), the words of the opcode
table, the header and its 11 bytes (R75, R76), and the type codes (R74).
-/
namespace Sys2Proof.Machine

/-! ## Operations and their byte image (R70, R72) -/

/-- Settles O28: only a buffer index, a BUS_ERR transaction and a reserved word need their check; for the
other operations the decoders undo the encoder by computation. -/
theorem decodeOfEncodeIsTheOperation : Obligations.DecodeOfEncodeIsTheOperation := by
  intro i
  cases i with
  | rdBuf i => exact Laws.RoundTrip.rdBuf i
  | wrBuf i w => exact Laws.RoundTrip.wrBuf i w
  | busErr req => exact Laws.RoundTrip.busErr req
  | cmdReserved w => exact Laws.RoundTrip.cmdReserved w
  | _ => exact Laws.RoundTrip.of_decodePresented fun _ => rfl

/-- A table word whose bytes are the image of a transaction or a command word decodes to its operation. -/
theorem decodeTableWord_of_tableBytes {nbits w : Nat} {x : Request ⊕ Word}
    (h : tableBytes nbits w = some (presentedBytes x)) :
    decodeTableWord nbits w = some (decodePresented x) := by
  simp [decodeTableWord, h, decode_presentedBytes, Except.toOption]

/-- Settles O31: each word's bytes are the image of the transaction or command word that its bits spell, and
the bus decode or the command map of that is the operation. -/
theorem tableWordsDecode : Obligations.TableWordsDecode := by
  refine ⟨?_, ?_, ?_, ?_, ?_, ?_, ?_, ?_, ?_, ?_⟩
  · exact decodeTableWord_of_tableBytes (x := .inl (.read .four 0x00#18)) (by decide)
  · exact decodeTableWord_of_tableBytes (x := .inl (.write .four 0x08#18 0#32)) (by decide)
  · exact decodeTableWord_of_tableBytes (x := .inl (.read .four 0x1C#18)) (by decide)
  · exact decodeTableWord_of_tableBytes (x := .inl (.write .four 0x34#18 0#32)) (by decide)
  · exact decodeTableWord_of_tableBytes (x := .inl (.read .one 0x10000#18)) (by decide)
  · exact decodeTableWord_of_tableBytes (x := .inl (.write .one 0x20009#18 0#32)) (by decide)
  · exact decodeTableWord_of_tableBytes (x := .inl (.read .four 0x40#18)) (by decide)
  · exact decodeTableWord_of_tableBytes (x := .inr 0x00000001#32) (by decide)
  · exact decodeTableWord_of_tableBytes (x := .inr 0x00000002#32) (by decide)
  · exact decodeTableWord_of_tableBytes (x := .inr 0x00000011#32) (by decide)

/-! ## Byte order (R7): the bytes of a value, and the value of bytes -/

theorem be16_extractLsb' (v : Half) : be16 (v.extractLsb' 8 8) (v.extractLsb' 0 8) = v := by
  rw [be16_eq_append]
  exact BitVec.extractLsb'_append_extractLsb'

/-- BE32 takes bits 31:24 first, so it is the byte image's word with its bytes in reverse. -/
theorem be32_eq_wordOfBytes (b0 b1 b2 b3 : Byte) : be32 b0 b1 b2 b3 = wordOfBytes b3 b2 b1 b0 := rfl

theorem be32_extractLsb' (v : Word) :
    be32 (v.extractLsb' 24 8) (v.extractLsb' 16 8) (v.extractLsb' 8 8) (v.extractLsb' 0 8) = v := by
  rw [be32_eq_wordOfBytes, wordOfBytes_wordBytes]

theorem bytesBE16_be16 (b0 b1 : Byte) : bytesBE16 (be16 b0 b1) = [b0, b1] := by
  rw [be16_eq_append, bytesBE16, BitVec.extractLsb'_append_eq_left, BitVec.extractLsb'_append_eq_right]

theorem bytesBE32_be32 (b0 b1 b2 b3 : Byte) : bytesBE32 (be32 b0 b1 b2 b3) = [b0, b1, b2, b3] := by
  simp only [bytesBE32, be32, BitVec.extractLsb'_append_eq_of_le, BitVec.extractLsb'_append_eq_right,
    BitVec.extractLsb'_eq_self, Nat.reduceLeDiff, Nat.reduceSub]

/-! ## The header (R75, R76) -/

/-- The four fields of the first 11 frame bytes f (R75). -/
def headerFields (f : Nat → Byte) : Header := ⟨fieldType f, fieldSeq f, fieldLen f, fieldCsum f⟩

/-- Byte sequences that agree on 11 bytes have the same fields. -/
theorem headerFields_congr {f g : Nat → Byte} (h : ∀ k, k < 11 → f k = g k) :
    headerFields f = headerFields g := by
  simp [headerFields, fieldType, fieldSeq, fieldLen, fieldCsum, h]

theorem headerFields_headerBytes (h : Header) :
    headerFields ((headerBytes h).getD · 0#8) = h := by
  have htype : fieldType ((headerBytes h).getD · 0#8) = h.type := rfl
  have hseq : fieldSeq ((headerBytes h).getD · 0#8) = h.seq := be32_extractLsb' h.seq
  have hlen : fieldLen ((headerBytes h).getD · 0#8) = h.len := be16_extractLsb' h.len
  have hcsum : fieldCsum ((headerBytes h).getD · 0#8) = h.csum := be32_extractLsb' h.csum
  rw [headerFields, htype, hseq, hlen, hcsum]

theorem headerBytes_headerFields (f : Nat → Byte) : headerBytes (headerFields f) = sequenceOf f 0 11 := by
  simp only [headerBytes, headerFields, fieldType, fieldSeq, fieldLen, fieldCsum, bytesBE32_be32, bytesBE16_be16]
  rfl

/-- Settles O32: each field's bytes give the field back, and each field of given bytes gives its bytes back. -/
theorem headerDecodingInvertsEncoding : Obligations.HeaderDecodingInvertsEncoding := by
  refine ⟨fun h => ⟨headerBytes_length h, fun f hf => ?_⟩, headerBytes_headerFields⟩
  have hfields : headerFields f = h :=
    calc headerFields f
        = headerFields ((headerBytes h).getD · 0#8) :=
          headerFields_congr fun k hk => by simp [List.getD_eq_getElem?_getD, hf k hk]
      _ = h := headerFields_headerBytes h
  subst hfields
  exact ⟨rfl, rfl, rfl, rfl⟩

/-! ## The type codes (R74) -/

theorem typeIsKnown_iff (t : Byte) : typeIsKnown t = true ↔ 1 ≤ t.toNat ∧ t.toNat ≤ 6 := by
  simp [typeIsKnown]

/-- The codes are the numbers 1 to 6, with no gap. -/
theorem exists_typeCode_of_range {n : Nat} (hfirst : 1 ≤ n) (hlast : n ≤ 6) :
    ∃ m : MsgType, Config.typeCode m = BitVec.ofNat 8 n := by
  match n with
  | 1 => exact ⟨.get, rfl⟩
  | 2 => exact ⟨.data, rfl⟩
  | 3 => exact ⟨.ack, rfl⟩
  | 4 => exact ⟨.nak, rfl⟩
  | 5 => exact ⟨.err, rfl⟩
  | 6 => exact ⟨.fin, rfl⟩

/-- Settles O33: the range 1 to 6 holds the six codes and nothing else. -/
theorem knownTypesAreTheSixCodes : Obligations.KnownTypesAreTheSixCodes := by
  intro t
  constructor
  · intro hknown
    obtain ⟨hfirst, hlast⟩ := (typeIsKnown_iff t).mp hknown
    simpa using exists_typeCode_of_range hfirst hlast
  · rintro ⟨m, rfl⟩
    cases m <;> rfl

end Sys2Proof.Machine

/-!
PROOFS. The statements of 40_crc_generator.md: the reads and writes of the CRC unit and of the read-only and
write-only registers (R104 to R109, R128, R163 to R173), the table form and the incremental law (R101, R103),
and the error bursts that crc32 detects (R111).
-/
namespace Sys2Proof.Machine

/-! ## Register reads and writes (R104 to R109, R128, R163 to R173) -/

/-- A register is read at its offset, with SZ = 4 bytes (R70). -/
theorem readsAt_readOp (r : Reg) : readsAt (0#1 ++ 2#2 ++ Config.offset r) (readOp r) :=
  readsAt_of_request .four _ rfl (by cases r <;> rfl)

theorem decodeRequest_hostWr (r : Reg) (w : Word) : decodeRequest (hostWr r w) = writeOp r w := by
  cases r <;> rfl

/-- A register is written at its offset, with SZ = 4 bytes (R70). -/
theorem writesAt_writeOp (r : Reg) : writesAt (1#1 ++ 2#2 ++ Config.offset r) (writeOp r) :=
  writesAt_of_request .four _ rfl (decodeRequest_hostWr r)

/-- Settles O5: each read answers its register's value, which for CRC_OUT is the complement. -/
theorem readCrcRegisters : Obligations.ReadCrcRegisters := by
  refine ⟨readsAt_readOp .crcAcc, readsAt_readOp .crcOut, fun s => ⟨?_, exec_readOp .crcOut s⟩⟩
  rw [← BitVec.setWidth_eq s.crcAcc]
  exact exec_readOp .crcAcc s

/-- Settles O6: each read answers its register's value, which for a write-only register is 0. -/
theorem writeOnlyRegistersReadZero : Obligations.WriteOnlyRegistersReadZero :=
  ⟨readsAt_readOp .cmd, readsAt_readOp .crcData, fun s => ⟨exec_readOp .cmd s, exec_readOp .crcData s⟩⟩

/-- Settles O10: the write of a read-only register has no effect but its answer. -/
theorem writesToReadOnlyRegistersAreIgnored : Obligations.WritesToReadOnlyRegistersAreIgnored := by
  refine ⟨writesAt_writeOp .crcOut, writesAt_writeOp .frmLen, writesAt_writeOp .resType,
    writesAt_writeOp .resSeq, writesAt_writeOp .resLen, writesAt_writeOp .resHcsum,
    writesAt_writeOp .resCcsum, fun s w => ?_⟩
  have hignored : answersWrite (.next (answerWrite s)) s := answersWrite_answerWrite s
  exact ⟨hignored, hignored, hignored, hignored, hignored, hignored, hignored⟩

theorem exec_wrCrcAcc (w : Word) (s : State) :
    exec (.wrCrcAcc w) s = .next (answerWrite { s with crcAcc := w }) := rfl

theorem exec_wrCrcData (w : Word) (s : State) :
    exec (.wrCrcData w) s = .next (answerWrite { s with crcAcc := crcStep s.crcAcc (lowByte w) }) := rfl

/-- Settles O11: neither write looks at ENG, and each updates CRC_ACC alone. -/
theorem crcUnitWritesChangeTheAccumulatorAlone : Obligations.CrcUnitWritesChangeTheAccumulatorAlone := by
  refine ⟨writesAt_writeOp .crcAcc, writesAt_writeOp .crcData, fun s w => ⟨?_, ?_⟩⟩
  · rw [exec_wrCrcAcc]
    exact answersWrite_answerWrite _
  · rw [exec_wrCrcData]
    exact answersWrite_answerWrite _

/-! ## Check values (R100, R102) -/

/-- Settles O34: 72 turns of the loop on the check string, and none on the empty sequence. -/
theorem crcCheckValues : Obligations.CrcCheckValues := by
  unfold Obligations.CrcCheckValues
  decide +kernel

/-! ## The incremental law and the CRC unit (R103) -/

theorem serve_hostWr {r : Reg} {w : Word} {s t : State} (h : exec (writeOp r w) s = .next t)
    (rest : List Request) : serve (hostWr r w :: rest) s = serve rest t := by
  rw [serve, decodeRequest_hostWr, h]

theorem lowByte_setWidth (b : Byte) : lowByte (b.setWidth 32) = b := by
  rw [lowByte, BitVec.extractLsb'_setWidth_of_le (by decide), BitVec.extractLsb'_eq_self]

/-- Feeding bytes one at a time advances CRC_ACC over the sequence, and changes of the state only the
response and the counter of free values besides. -/
theorem serve_hostCrcb (bytes : List Byte) (s : State) : ∃ r d,
    serve (bytes.map hostCrcb) s =
      .next { s with crcAcc := crcFold s.crcAcc bytes, resp := r, draws := d } := by
  induction bytes generalizing s with
  | nil => exact ⟨s.resp, s.draws, rfl⟩
  | cons b bs ih =>
    obtain ⟨r, d, h⟩ := ih (answerWrite { s with crcAcc := crcStep s.crcAcc b })
    have hfeed : exec (writeOp .crcData (b.setWidth 32)) s =
        .next (answerWrite { s with crcAcc := crcStep s.crcAcc b }) := by
      rw [writeOp, exec_wrCrcData, lowByte_setWidth]
    exact ⟨r, d, (serve_hostWr hfeed _).trans h⟩

theorem crcFold_crcInit (bytes : List Byte) : crcFold Config.crcInit bytes = ~~~(crc32 bytes) :=
  BitVec.not_not.symm

theorem crc32_append (s1 s2 : List Byte) : crc32 (s1 ++ s2) = ~~~(crcFold (~~~(crc32 s1)) s2) := by
  rw [← crcFold_crcInit, ← crcFold_append, crc32]

/-- Settles O36: CRC_ACC is set to the register's value after s1, and feeding s2 continues from there. -/
theorem feedingTheCrcUnitComputesCrc32 : Obligations.FeedingTheCrcUnitComputesCrc32 := by
  refine ⟨fun s1 s2 => congrArg (~~~ ·) (crcFold_append _ s1 s2), fun s s1 s2 => ?_⟩
  obtain ⟨r, d, h⟩ := serve_hostCrcb s2 (answerWrite { s with crcAcc := ~~~(crc32 s1) })
  exact ⟨_, (serve_hostWr (r := .crcAcc) (exec_wrCrcAcc _ s) _).trans h, (crc32_append s1 s2).symm, rfl⟩

/-! ## The loop of R101: linear, one to one, and a shift where the low bits are 0 -/

theorem crcBit_of_odd {c : Word} (h : c.getLsbD 0 = true) : crcBit c = (c >>> 1) ^^^ Config.crcPoly :=
  if_pos h

theorem crcBit_of_even {c : Word} (h : c.getLsbD 0 = false) : crcBit c = c >>> 1 := by
  rw [crcBit, h]
  rfl

theorem crcBit_xor (c d : Word) : crcBit (c ^^^ d) = crcBit c ^^^ crcBit d := by
  have hxor : (c ^^^ d).getLsbD 0 = (c.getLsbD 0 ^^ d.getLsbD 0) := BitVec.getLsbD_xor
  unfold crcBit
  rw [hxor, BitVec.ushiftRight_xor_distrib]
  cases c.getLsbD 0 <;> cases d.getLsbD 0
  case false.false => rfl
  case false.true => exact BitVec.xor_assoc _ _ _
  case true.false => simp only [Bool.bne_false, if_true, Bool.false_eq_true, if_false]; ac_rfl
  case true.true =>
    calc (c >>> 1) ^^^ (d >>> 1)
        = (c >>> 1) ^^^ (d >>> 1) ^^^ (Config.crcPoly ^^^ Config.crcPoly) := by simp
      _ = (c >>> 1 ^^^ Config.crcPoly) ^^^ (d >>> 1 ^^^ Config.crcPoly) := by ac_rfl

/-- A turn makes 0 of 0 alone: bit 31 of the polynomial is 1, bit 31 of a shifted register is 0. -/
theorem eq_zero_of_crcBit_eq_zero {c : Word} (h : crcBit c = 0#32) : c = 0#32 := by
  cases hc : c.getLsbD 0 with
  | true =>
    rw [crcBit_of_odd hc, BitVec.xor_eq_zero_iff] at h
    have htop : (c >>> 1).getLsbD 31 = true := by rw [h]; decide
    simp at htop
  | false =>
    rw [crcBit_of_even hc] at h
    apply BitVec.eq_of_getLsbD_eq
    intro i _
    cases i with
    | zero => exact hc
    | succ i => simpa [Nat.add_comm] using congrArg (·.getLsbD i) h

theorem crcBit_injective : Function.Injective crcBit := fun c d h =>
  BitVec.xor_eq_zero_iff.mp (eq_zero_of_crcBit_eq_zero (by rw [crcBit_xor, h, BitVec.xor_self]))

theorem crcBits_xor (n : Nat) (c d : Word) : crcBits n (c ^^^ d) = crcBits n c ^^^ crcBits n d := by
  induction n generalizing c d with
  | zero => rfl
  | succ n ih => rw [crcBits, crcBit_xor, ih]; rfl

theorem crcBits_injective (n : Nat) : Function.Injective (crcBits n) := by
  induction n with
  | zero => exact Function.injective_id
  | succ n ih => exact ih.comp crcBit_injective

theorem crcBits_of_low_bits_zero {n : Nat} {c : Word} (h : ∀ i, i < n → c.getLsbD i = false) :
    crcBits n c = c >>> n := by
  induction n generalizing c with
  | zero => rw [crcBits, BitVec.ushiftRight_zero]
  | succ n ih =>
    have hrest : ∀ i, i < n → (c >>> 1).getLsbD i = false := fun i hi => by
      rw [BitVec.getLsbD_ushiftRight]
      exact h (1 + i) (by omega)
    rw [crcBits, crcBit_of_even (h 0 (by omega)), ih hrest, ← BitVec.shiftRight_add, Nat.add_comm]

/-! ## The table form (R101) -/

/-- The register split at bit 8. -/
theorem eq_high_xor_low (c : Word) : c = (c >>> 8 <<< 8) ^^^ (c.extractLsb' 0 8).setWidth 32 := by
  ext i hi
  by_cases h : i < 8
  · simp [h, hi]
  · simp [h, Nat.add_sub_cancel' (Nat.le_of_not_lt h), hi]

theorem crcBits_shiftRight_shiftLeft (c : Word) : crcBits 8 (c >>> 8 <<< 8) = c >>> 8 := by
  rw [crcBits_of_low_bits_zero fun i hi => by simp [hi]]
  ext i hi
  simpa using BitVec.lt_of_getLsbD

/-- Settles O35: the upper 24 bits only shift, and what the low byte adds depends on it and the input alone. -/
theorem crcStepHasATableForm : Obligations.CrcStepHasATableForm := by
  intro c b
  calc crcStep c b
      = crcBits 8 ((c >>> 8 <<< 8) ^^^ (c.extractLsb' 0 8 ^^^ b).setWidth 32) := by
        rw [crcStep, BitVec.setWidth_xor, ← BitVec.xor_assoc, ← eq_high_xor_low]
    _ = (c >>> 8) ^^^ crcStep 0#32 (c.extractLsb' 0 8 ^^^ b) := by
        rw [crcBits_xor, crcBits_shiftRight_shiftLeft, crcStep, BitVec.zero_xor]

/-! ## Every change of one byte (R111) -/

theorem foldl_injective {α β : Type} {f : α → β → α} (hf : ∀ b, Function.Injective (f · b))
    (l : List β) : Function.Injective (l.foldl f ·) := by
  induction l with
  | nil => exact Function.injective_id
  | cons b l ih => exact ih.comp (hf b)

theorem crcStep_injective_register (b : Byte) : Function.Injective (crcStep · b) := fun _ _ h =>
  (BitVec.xor_left_inj _).mp (crcBits_injective 8 h)

theorem crcStep_injective_byte (c : Word) : Function.Injective (crcStep c) := fun b b' h => by
  have hwide : b.setWidth 32 = b'.setWidth 32 := (BitVec.xor_right_inj _).mp (crcBits_injective 8 h)
  bv_omega

theorem crc32_eq_iff (u v : List Byte) :
    crc32 u = crc32 v ↔ crcFold Config.crcInit u = crcFold Config.crcInit v := BitVec.not_inj

/-- Settles O37: from one register, different bytes leave different registers, and equal bytes after them
keep them different. -/
theorem crcDetectsEveryOneByteChange : Obligations.CrcDetectsEveryOneByteChange := by
  intro pre post b b' hne h
  rw [crc32_eq_iff, crcFold_append, crcFold_append] at h
  exact hne (crcStep_injective_byte _ (foldl_injective crcStep_injective_register post h))

/-! ## The message as bits, in the order of R101 -/

/-- The CRC register advanced by one message bit. -/
def crcShiftIn (c : Word) (x : Bool) : Word := crcBit (c ^^^ (BitVec.ofBool x).setWidth 32)

/-- The bits of a byte, bit 0 first. -/
def byteBits (b : Byte) : List Bool := (List.range 8).map b.getLsbD

/-- The bits of a byte sequence: bit j of byte i at position 8 i + j. -/
def messageBits (bytes : List Byte) : List Bool := bytes.flatMap byteBits

/-- At most 32 bits as a word, the first bit in bit 0. -/
def bitsWord (xs : List Bool) : Word := (BitVec.ofBoolListLE xs).setWidth 32

@[simp] theorem byteBits_length (b : Byte) : (byteBits b).length = 8 := by simp [byteBits]

@[simp] theorem messageBits_cons (b : Byte) (bs : List Byte) :
    messageBits (b :: bs) = byteBits b ++ messageBits bs := List.flatMap_cons

theorem messageBits_length (u : List Byte) : (messageBits u).length = 8 * u.length := by
  induction u with
  | nil => rfl
  | cons b bs ih =>
    rw [messageBits_cons, List.length_append, byteBits_length, ih, List.length_cons]
    omega

theorem messageBits_getElem? (u : List Byte) (k : Nat) :
    (messageBits u)[k]? = u[k / 8]?.map (·.getLsbD (k % 8)) := by
  induction u generalizing k with
  | nil => simp [messageBits]
  | cons b bs ih =>
    rw [messageBits_cons]
    by_cases hk : k < 8
    · rw [List.getElem?_append_left (by simpa using hk), Nat.div_eq_of_lt hk, Nat.mod_eq_of_lt hk]
      simp [byteBits, hk]
    · obtain ⟨m, rfl⟩ : ∃ m, k = m + 8 := ⟨k - 8, by omega⟩
      rw [List.getElem?_append_right (by simp), byteBits_length, Nat.add_sub_cancel, ih,
        Nat.add_div_right m (by omega), Nat.add_mod_right, List.getElem?_cons_succ]

theorem messageBits_injective_of_length {u v : List Byte} (hlen : u.length = v.length)
    (h : messageBits u = messageBits v) : u = v := by
  refine List.ext_getElem hlen fun i hu hv => BitVec.eq_of_getLsbD_eq fun j hj => ?_
  have hbit : (messageBits u)[8 * i + j]? = (messageBits v)[8 * i + j]? := by rw [h]
  rw [messageBits_getElem?, messageBits_getElem?, Nat.mul_add_div (by decide), Nat.div_eq_of_lt hj,
    Nat.mul_add_mod, Nat.mod_eq_of_lt hj] at hbit
  simpa [hu, hv] using hbit

@[simp] theorem bitsWord_getElem (xs : List Bool) (i : Nat) (hi : i < 32) :
    (bitsWord xs)[i] = xs.getD i false := by
  simp [bitsWord]

theorem bitsWord_nil : bitsWord [] = 0#32 := rfl

theorem bitsWord_cons (x : Bool) (xs : List Bool) :
    bitsWord (x :: xs) = (BitVec.ofBool x).setWidth 32 ^^^ (bitsWord xs <<< 1) := by
  ext i hi
  cases i with
  | zero => simp
  | succ i => simp

/-- What is added above bit 0 passes a turn as a shift. -/
theorem crcBit_xor_shiftLeft {c w : Word} (hw : w.getLsbD 31 = false) :
    crcBit (c ^^^ w <<< 1) = crcBit c ^^^ w := by
  have hback : w <<< 1 >>> 1 = w := by
    ext i hi
    by_cases h : i = 31
    · subst h
      simpa using hw.symm
    · simp [show 1 + i < 32 by omega]
  rw [crcBit_xor, crcBit_of_even (c := w <<< 1) (by simp), hback]

/-- Up to 32 bits may be added to the register at once, before their turns. -/
theorem foldl_crcShiftIn {xs : List Bool} (c : Word) (h : xs.length ≤ 32) :
    xs.foldl crcShiftIn c = crcBits xs.length (c ^^^ bitsWord xs) := by
  induction xs generalizing c with
  | nil => simp [crcBits, bitsWord_nil]
  | cons x xs ih =>
    have hlen : xs.length ≤ 31 := Nat.le_of_succ_le_succ h
    have hfit : (bitsWord xs).getLsbD 31 = false := by simp [hlen]
    rw [List.foldl_cons, ih _ (by omega), List.length_cons, crcBits, bitsWord_cons, ← BitVec.xor_assoc,
      crcBit_xor_shiftLeft hfit, crcShiftIn]

/-- A step of R101 is the turns of its byte's bits. -/
theorem crcStep_eq_foldl (c : Word) (b : Byte) : crcStep c b = (byteBits b).foldl crcShiftIn c := by
  have hword : bitsWord (byteBits b) = b.setWidth 32 := by
    ext i hi
    by_cases h : i < 8
    · simp [byteBits, h]
    · simp [byteBits, h, BitVec.getLsbD_of_ge b i (Nat.le_of_not_lt h)]
  rw [foldl_crcShiftIn c (by simp), hword, byteBits_length, crcStep]

theorem crcFold_eq_foldl (c : Word) (u : List Byte) :
    crcFold c u = (messageBits u).foldl crcShiftIn c := by
  induction u generalizing c with
  | nil => rfl
  | cons b bs ih => rw [crcFold_cons, messageBits_cons, List.foldl_append, ← crcStep_eq_foldl, ih]

/-! ## Every burst of 32 bits or fewer (R111) -/

theorem crcShiftIn_injective_register (x : Bool) : Function.Injective (crcShiftIn · x) := fun _ _ h =>
  (BitVec.xor_left_inj _).mp (crcBit_injective h)

theorem bitsWord_injective_of_length {xs ys : List Bool} (hlen : xs.length = ys.length)
    (hle : xs.length ≤ 32) (h : bitsWord xs = bitsWord ys) : xs = ys := by
  refine List.ext_getElem hlen fun i hx hy => ?_
  have hi : i < 32 := Nat.lt_of_lt_of_le hx hle
  have hbit : (bitsWord xs)[i] = (bitsWord ys)[i] := by rw [h]
  simpa [hx, hy] using hbit

/-- Sequences of at most 32 bits that leave the same register after equal further bits are equal. -/
theorem eq_of_foldl_crcShiftIn_eq {xs ys : List Bool} (c : Word) (post : List Bool)
    (hlen : xs.length = ys.length) (hle : xs.length ≤ 32)
    (h : post.foldl crcShiftIn (xs.foldl crcShiftIn c) = post.foldl crcShiftIn (ys.foldl crcShiftIn c)) :
    xs = ys := by
  have hmid : xs.foldl crcShiftIn c = ys.foldl crcShiftIn c :=
    foldl_injective crcShiftIn_injective_register post h
  rw [foldl_crcShiftIn c hle, foldl_crcShiftIn c (hlen ▸ hle), ← hlen] at hmid
  exact bitsWord_injective_of_length hlen hle ((BitVec.xor_right_inj _).mp (crcBits_injective _ hmid))

/-- Bit sequences of one length that differ within 32 positions only, from p on, leave different
registers unless they are equal. -/
theorem eq_of_foldl_crcShiftIn_eq_of_burst {xs ys : List Bool} (c : Word) (p : Nat)
    (hlen : xs.length = ys.length) (hout : ∀ k, k < p ∨ p + 32 ≤ k → xs[k]? = ys[k]?)
    (h : xs.foldl crcShiftIn c = ys.foldl crcShiftIn c) : xs = ys := by
  have hpre : xs.take p = ys.take p := by
    refine List.ext_getElem? fun k => ?_
    rw [List.getElem?_take, List.getElem?_take]
    by_cases hk : k < p
    · rw [hout k (.inl hk)]
    · rw [if_neg hk, if_neg hk]
  have hpost : (xs.drop p).drop 32 = (ys.drop p).drop 32 := by
    refine List.ext_getElem? fun k => ?_
    rw [List.drop_drop, List.drop_drop, List.getElem?_drop, List.getElem?_drop, hout _ (.inr (by omega))]
  have hsplit (zs : List Bool) : zs = zs.take p ++ ((zs.drop p).take 32 ++ (zs.drop p).drop 32) := by
    simp only [List.take_append_drop]
  rw [hsplit xs, hsplit ys, hpre, hpost] at h
  simp only [List.foldl_append] at h
  have hmid : (xs.drop p).take 32 = (ys.drop p).take 32 :=
    eq_of_foldl_crcShiftIn_eq _ _ (by simp [hlen]) (List.length_take_le _ _) h
  rw [hsplit xs, hpre, hmid, hpost, ← hsplit ys]

/-- Settles O38: read as bits, the sequences agree outside the burst. So equal CRCs would mean equal registers
where it begins and, since each turn is one to one, where it ends, and its bits would be equal too. -/
theorem crcDetectsEveryBurstOf32Bits : Obligations.CrcDetectsEveryBurstOf32Bits := by
  intro u v p hlen hne hburst hcrc
  have hout : ∀ k, k < p ∨ p + 32 ≤ k → (messageBits u)[k]? = (messageBits v)[k]? := by
    intro k hk
    rw [messageBits_getElem?, messageBits_getElem?]
    by_cases hu : k / 8 < u.length
    · have hv : k / 8 < v.length := hlen ▸ hu
      have hbit : (u.getD (k / 8) 0#8).getLsbD (k % 8) = (v.getD (k / 8) 0#8).getLsbD (k % 8) := by
        refine Decidable.byContradiction fun hdiff => ?_
        have hinside := hburst _ _ (Nat.mod_lt k (by decide)) hdiff
        omega
      rw [List.getD_eq_getElem?_getD, List.getD_eq_getElem?_getD, List.getElem?_eq_getElem hu,
        List.getElem?_eq_getElem hv, Option.getD_some, Option.getD_some] at hbit
      rw [List.getElem?_eq_getElem hu, List.getElem?_eq_getElem hv, Option.map_some, Option.map_some, hbit]
    · have hv : ¬ k / 8 < v.length := hlen ▸ hu
      rw [List.getElem?_eq_none (Nat.le_of_not_lt hu), List.getElem?_eq_none (Nat.le_of_not_lt hv)]
  rw [crc32_eq_iff, crcFold_eq_foldl, crcFold_eq_foldl] at hcrc
  exact hne (messageBits_injective_of_length hlen
    (eq_of_foldl_crcShiftIn_eq_of_burst _ p (by rw [messageBits_length, messageBits_length, hlen]) hout hcrc))

end Sys2Proof.Machine

/-!
PROOFS. The statements of 41_codec.md: WR_CMD (R120), the completion step (R121), ENCODE and DECODE with what
each depends on (R122, R123, R125), and the codec and the round trip that they refine (R126, R127).
-/
namespace Sys2Proof.Machine

/-! ## WR_CMD (R120) -/

theorem exec_wrCmd_idle (w : Word) {s : State} (hidle : s.eng = .idle) :
    exec (.wrCmd w) s = .next (answerWrite (issueCommand w s)) :=
  congrArg Host.Outcome.next (writeArgument_idle hidle)

theorem exec_wrCmd_busy (w : Word) {s : State} (hbusy : s.eng ≠ .idle) :
    exec (.wrCmd w) s = .next (answerWrite (dropWrite s)) :=
  congrArg Host.Outcome.next (writeArgument_busy hbusy)

theorem issueCommand_commandWord (c : Command) (s : State) :
    issueCommand (commandWord c) s = acceptCommand c s := by
  cases c <;> rfl

theorem exec_wrCmd_accepted (c : Command) {s : State} (hidle : s.eng = .idle) :
    exec (.wrCmd (commandWord c)) s = .next (answerWrite (acceptCommand c s)) := by
  rw [exec_wrCmd_idle _ hidle, issueCommand_commandWord]

theorem issueCommand_reserved {w : Word} (hencode : w ≠ 1#32) (hdecode : w ≠ 2#32) (s : State) :
    issueCommand w s = endCommand errBadCmd s := by
  obtain ⟨hw, -⟩ | ⟨-, -, h⟩ := issueCommand_cases w s
  · exact absurd hw (not_or.mpr ⟨hencode, hdecode⟩)
  · exact h

/-- Settles O16: the engine's state picks between a dropped write and the command word's effect. -/
theorem writeCmdIssuesACommand : Obligations.WriteCmdIssuesACommand := by
  refine ⟨writesAt_writeOp .cmd, fun s w => ⟨fun hbusy => ?_, fun hidle hw => ?_, fun hidle hw => ?_,
    fun hidle hencode hdecode => ?_⟩⟩
  · rw [exec_wrCmd_busy w hbusy]
    exact answersWrite_answerWrite _
  · rw [show w = commandWord .encode from hw, exec_wrCmd_accepted .encode hidle]
    exact answersWrite_answerWrite _
  · rw [show w = commandWord .decode from hw, exec_wrCmd_accepted .decode hidle]
    exact answersWrite_answerWrite _
  · rw [exec_wrCmd_idle w hidle, issueCommand_reserved hencode hdecode]
    exact answersWrite_answerWrite _

/-! ## The completion step of either command (R121) -/

/-- Settles O21: of the engine's effects on a pending command only the rejection has a code other than 0, and
it writes ERR, DONE and ENG alone. -/
theorem completionSetsDoneAndFreesTheEngine : Obligations.CompletionSetsDoneAndFreesTheEngine := by
  intro s c hbusy
  obtain ⟨t, hexec, hidle, hdone⟩ := exec_completionOf_busy hbusy
  refine ⟨t, hexec, hdone, hidle, ?_⟩
  obtain ⟨u, d, heff, rfl⟩ := exec_completionOf_effect hbusy hexec
  cases heff with
  | idle hidle => cases hidle.symm.trans hbusy
  | encoded => exact ⟨.inl rfl, fun herr => absurd rfl herr⟩
  | rejected code _ hcode => exact ⟨.inr hcode, fun _ => rfl⟩
  | decoded => exact ⟨.inl rfl, fun herr => absurd rfl herr⟩

/-! ## The commit of the results (R122, R123) -/

theorem typeIsKnown_eq (t : Byte) : typeIsKnown t = decide (1 ≤ t.toNat ∧ t.toNat ≤ 6) := by
  rw [Bool.eq_iff_iff, typeIsKnown_iff, decide_eq_true_iff]

/-- A command that commits and ends changes of the block, BUF and FRM_LEN aside, the results and ERR, DONE
and ENG. -/
theorem finishCommand_commitResults_sameBlock (h : Header) (k : Word) (s : State) (m : Memory) (d : Nat)
    {ok : Bool} (hok : decide (h.csum = k) = ok) :
    State.sameBlock { finishCommand errNone (commitResults h k { s with buf := m, draws := d }) with
        buf := s.buf, frmLen := s.frmLen }
      { s with
        resType := h.type, resSeq := h.seq, resLen := h.len, resHcsum := h.csum, resCcsum := k, crcOk := ok,
        typeKnown := decide (1 ≤ h.type.toNat ∧ h.type.toNat ≤ 6),
        err := 0#4, done := true, eng := .idle } := by
  rw [← hok, ← typeIsKnown_eq]
  rfl

/-! ## ENCODE (R122) -/

/-- The header that ENCODE writes before the payload `p` (R122). -/
def State.txHeader (s : State) (p : List Byte) : Header := ⟨s.txType, s.txSeq, s.txLen, crc32 p⟩

/-- The payload as ENCODE reads it, and the draws after it. -/
def State.drawPayload (s : State) : List Byte × Nat :=
  drawBytes s.buf Config.hdrSize s.txLen.toNat s.draws

/-- What ENCODE leaves when it has read `p` and the draws stand at `d`. -/
def State.encoded (s : State) (p : List Byte) (d : Nat) : State :=
  finishCommand errNone (commitResults (s.txHeader p) (crc32 p)
    { s with buf := Memory.writeBytes s.buf 0 (headerBytes (s.txHeader p)), draws := d })

theorem exec_cmdEncode_busy {s : State} (hb : s.eng = .busy .encode) :
    exec .cmdEncode s = .next (s.encoded s.drawPayload.1 s.drawPayload.2) := by
  rw [exec, execCmdEncode, hb]
  rfl

theorem State.encoded_buf (s : State) (p : List Byte) (d : Nat) :
    (s.encoded p d).buf = Memory.writeBytes s.buf 0 (headerBytes (s.txHeader p)) := by
  rw [State.encoded, finishCommand_buf, commitResults_buf]

theorem State.read_encoded_header (s : State) (p : List Byte) (d : Nat) {j : Nat} (hj : j < 11) :
    Memory.read (s.encoded p d).buf j = (headerBytes (s.txHeader p))[j]? := by
  have h := Memory.read_writeBytes_inside (m := s.buf) (start := 0) (k := j)
    (bytes := headerBytes (s.txHeader p)) (by rwa [headerBytes_length])
  rwa [Nat.zero_add, ← State.encoded_buf s p d] at h

theorem State.read_encoded_payload (s : State) (p : List Byte) (d : Nat) {j : Nat} (hj : 11 ≤ j) :
    Memory.read (s.encoded p d).buf j = Memory.read s.buf j := by
  rw [State.encoded_buf, Memory.read_writeBytes_outside _ (.inr (by rwa [headerBytes_length, Nat.zero_add]))]

theorem State.encoded_frmLen_toNat (s : State) (p : List Byte) (d : Nat) :
    (s.encoded p d).frmLen.toNat = Config.hdrSize + s.txLen.toNat := by
  rw [State.encoded, finishCommand_frmLen, commitResults_frmLen_toNat, State.txHeader]

/-- Settles O18: the payload as drawn, the header of it, and the commit with its checksum in both places. -/
theorem encodeWritesTheHeaderAndResults : Obligations.EncodeWritesTheHeaderAndResults := by
  refine ⟨decode_presentedBytes (.inr 1#32), fun s hb => ?_⟩
  exact ⟨s.drawPayload.1, s.encoded s.drawPayload.1 s.drawPayload.2, drawBytes_length _ _ _ _,
    fun _ _ hk hread => drawBytes_of_written hk hread, exec_cmdEncode_busy hb,
    fun _ hj => s.read_encoded_header _ _ hj, fun _ hj => s.read_encoded_payload _ _ hj,
    s.encoded_frmLen_toNat _ _,
    finishCommand_commitResults_sameBlock (s.txHeader _) _ s _ _ (decide_eq_true rfl)⟩

/-- Settles O51: equal payload bytes are drawn alike, and all that ENCODE writes is made of them. -/
theorem encodeDependsOnItsPayloadAlone : Obligations.EncodeDependsOnItsPayloadAlone := by
  intro s m hb hpayload
  have hdraw : s.drawPayload = State.drawPayload { s with buf := m } := drawBytes_congr hpayload
  refine ⟨_, _, exec_cmdEncode_busy hb, exec_cmdEncode_busy (s := { s with buf := m }) hb, ?_, fun j hj => ?_⟩
  · rw [hdraw]
    rfl
  · rw [State.read_encoded_header _ _ _ hj, State.read_encoded_header _ _ _ hj, hdraw]
    rfl

/-! ## The frame as DECODE reads it (R75, R123) -/

/-- The header, the payload and the draws after them, for a DECODE that starts at `d` draws (R123). -/
def frameDrawn (m : Memory) (d : Nat) : Header × List Byte × Nat :=
  drawFrame m (drawLen m d).1 (drawLen m d).2

/-- BUF as that DECODE reads it: BUF[5] and BUF[6], then the rest of the header, then the payload. It reads no
byte outside the frame; one that was never written stands here as 0. -/
def frameRead (m : Memory) (d : Nat) (i : Nat) : Byte :=
  let lenBytes := drawBytes m 5 2 d
  let front := drawBytes m 0 5 lenBytes.2
  let csum := drawBytes m 7 4 front.2
  if i < 5 then front.1.getD i 0#8
  else if i < 7 then lenBytes.1.getD (i - 5) 0#8
  else if i < 11 then csum.1.getD (i - 7) 0#8
  else (frameDrawn m d).2.1.getD (i - 11) ((Memory.read m i).getD 0#8)

theorem frameRead_payload (m : Memory) (d k : Nat) : frameRead m d (11 + k) =
    (frameDrawn m d).2.1.getD k ((Memory.read m (11 + k)).getD 0#8) := by
  rw [frameRead, if_neg (by omega), if_neg (by omega), if_neg (by omega), Nat.add_sub_cancel_left]

theorem drawLen_eq (m : Memory) (d : Nat) : (drawLen m d).1 = fieldLen (frameRead m d) := by
  simp [drawLen, fieldLen, frameRead]

theorem frameDrawn_header (m : Memory) (d : Nat) : (frameDrawn m d).1 = headerFields (frameRead m d) := by
  simp [frameDrawn, drawFrame, drawLen, headerFields, fieldType, fieldSeq, fieldLen, fieldCsum, frameRead]

theorem frameDrawn_payload (m : Memory) (d : Nat) : ∃ d',
    (frameDrawn m d).2.1 = (drawBytes m Config.hdrSize (fieldLen (frameRead m d)).toNat d').1 := by
  rw [← drawLen_eq]
  exact ⟨_, rfl⟩

/-- A list whose bytes `f` has from `start` on is that part of `f`. -/
theorem sequenceOf_eq {f : Nat → Byte} {start n : Nat} {bytes : List Byte} (hn : bytes.length = n)
    (h : ∀ k, k < n → bytes[k]? = some (f (start + k))) : sequenceOf f start n = bytes := by
  refine List.ext_getElem (by simp [sequenceOf, hn]) fun k _ hk => ?_
  have hbyte := h k (hn ▸ hk)
  rw [List.getElem?_eq_getElem hk, Option.some_inj] at hbyte
  simp [sequenceOf, hbyte]

theorem frameDrawn_payload_eq_sequenceOf (m : Memory) (d : Nat) :
    (frameDrawn m d).2.1 = sequenceOf (frameRead m d) 11 (fieldLen (frameRead m d)).toNat := by
  obtain ⟨d', hpayload⟩ := frameDrawn_payload m d
  have hn : (frameDrawn m d).2.1.length = (fieldLen (frameRead m d)).toNat := by rw [hpayload, drawBytes_length]
  refine (sequenceOf_eq hn fun k hk => ?_).symm
  rw [frameRead_payload, List.getD_eq_getElem?_getD, List.getElem?_eq_getElem (hn ▸ hk), Option.getD_some]

/-- A written byte is drawn as written, wherever the range begins. -/
theorem drawBytes_getD_of_written {m : Memory} {start n d i : Nat} {b : Byte} (x : Byte)
    (hread : Memory.read m i = some b) (hle : start ≤ i) (hlt : i < start + n) :
    (drawBytes m start n d).1.getD (i - start) x = b := by
  rw [List.getD_eq_getElem?_getD,
    drawBytes_of_written (by omega) (by rwa [Nat.add_sub_cancel' hle]), Option.getD_some]

theorem mayReadAs_frameRead (m : Memory) (d : Nat) : Memory.mayReadAs m (frameRead m d) := by
  intro i b hread
  by_cases hi : i < 11
  · unfold frameRead
    split
    · exact drawBytes_getD_of_written _ hread (Nat.zero_le i) (by omega)
    · split
      · exact drawBytes_getD_of_written _ hread (by omega) (by omega)
      · exact drawBytes_getD_of_written _ hread (by omega) (by omega)
  · obtain ⟨k, rfl⟩ : ∃ k, i = 11 + k := ⟨i - 11, by omega⟩
    obtain ⟨d', hpayload⟩ := frameDrawn_payload m d
    rw [frameRead_payload, hpayload, List.getD_eq_getElem?_getD]
    by_cases hk : k < (fieldLen (frameRead m d)).toNat
    · rw [drawBytes_of_written hk hread, Option.getD_some]
    · rw [List.getElem?_eq_none (by rw [drawBytes_length]; omega), hread, Option.getD_none, Option.getD_some]

/-! ## DECODE's three ends (R123) -/

theorem exec_cmdDecode_busy {s : State} (hb : s.eng = .busy .decode) :
    exec .cmdDecode s = .next (finishCommand (performDecode s).1 (performDecode s).2) := by
  rw [exec, execCmdDecode, hb]

theorem exec_cmdDecode_tooShort {s : State} (hb : s.eng = .busy .decode) (hrx : s.rxLen.toNat < 11) :
    exec .cmdDecode s = .next (finishCommand errTooShort s) := by
  have hperform : performDecode s = (errTooShort, s) := if_pos hrx
  rw [exec_cmdDecode_busy hb, hperform]

theorem exec_cmdDecode_truncated {s : State} (hb : s.eng = .busy .decode) (hrx : 11 ≤ s.rxLen.toNat)
    (hlen : (fieldLen (frameRead s.buf s.draws)).toNat > s.rxLen.toNat - 11) :
    exec .cmdDecode s = .next (finishCommand errTruncated { s with draws := (drawLen s.buf s.draws).2 }) := by
  rw [← drawLen_eq] at hlen
  have hperform : performDecode s = (errTruncated, { s with draws := (drawLen s.buf s.draws).2 }) :=
    (if_neg (Nat.not_lt.mpr hrx)).trans (if_pos hlen)
  rw [exec_cmdDecode_busy hb, hperform]

/-- What DECODE leaves when it has drawn the frame `f`. -/
def State.decoded (s : State) (f : Header × List Byte × Nat) : State :=
  finishCommand errNone (commitResults f.1 (crc32 f.2.1) { s with draws := f.2.2 })

theorem exec_cmdDecode_committed {s : State} (hb : s.eng = .busy .decode) (hrx : 11 ≤ s.rxLen.toNat)
    (hlen : (fieldLen (frameRead s.buf s.draws)).toNat ≤ s.rxLen.toNat - 11) :
    exec .cmdDecode s = .next (s.decoded (frameDrawn s.buf s.draws)) := by
  rw [← drawLen_eq] at hlen
  obtain ⟨hshort, -⟩ | ⟨-, hlong, -⟩ | ⟨-, -, h, p, d, hdraw, hperform⟩ := performDecode_cases s
  · exact absurd hrx (Nat.not_le.mpr hshort)
  · exact absurd hlen (Nat.not_le.mpr hlong)
  · rw [exec_cmdDecode_busy hb, hperform, frameDrawn, hdraw, State.decoded]

theorem State.decoded_frmLen_toNat (s : State) (f : Header × List Byte × Nat) :
    (s.decoded f).frmLen.toNat = Config.hdrSize + f.1.len.toNat := by
  rw [State.decoded, finishCommand_frmLen, commitResults_frmLen_toNat]

theorem fieldLen_eq_append (f : Nat → Byte) : fieldLen f = f 5 ++ f 6 := be16_eq_append (f 5) (f 6)

/-- Settles O19: the first of the two checks that fails ends DECODE, and the fields are committed when neither
does. -/
theorem decodeChecksAndParsesTheFrame : Obligations.DecodeChecksAndParsesTheFrame := by
  refine ⟨decode_presentedBytes (.inr 2#32), fun s hb => ?_⟩
  obtain ⟨t, hexec, -⟩ := exec_completionOf_busy hb
  refine ⟨frameRead s.buf s.draws, t, mayReadAs_frameRead _ _, hexec, fun hshort => ?_, fun hrx hlen => ?_,
    fun hrx hlen => ?_⟩
  · cases hexec.symm.trans (exec_cmdDecode_tooShort hb hshort)
    rfl
  · rw [← fieldLen_eq_append] at hlen
    cases hexec.symm.trans (exec_cmdDecode_truncated hb hrx hlen)
    rfl
  · rw [← fieldLen_eq_append] at hlen ⊢
    cases hexec.symm.trans (exec_cmdDecode_committed hb hrx hlen)
    refine ⟨by rw [State.decoded_frmLen_toNat, frameDrawn_header]; rfl, ?_⟩
    rw [State.decoded, frameDrawn_header, frameDrawn_payload_eq_sequenceOf]
    exact finishCommand_commitResults_sameBlock (headerFields (frameRead s.buf s.draws)) _ s s.buf _ rfl

/-! ## DECODE's bounds (R125) -/

theorem drawLen_congr {m m' : Memory} {d : Nat} (h5 : Memory.read m 5 = Memory.read m' 5)
    (h6 : Memory.read m 6 = Memory.read m' 6) : drawLen m d = drawLen m' d := by
  have hdraw : drawBytes m 5 2 d = drawBytes m' 5 2 d := drawBytes_congr fun k hk => by
    match k with
    | 0 => exact h5
    | 1 => exact h6
  rw [drawLen, hdraw, drawLen]

theorem drawFrame_congr {m m' : Memory} {len : Half} {d : Nat}
    (h : ∀ j, j < 11 + len.toNat → Memory.read m j = Memory.read m' j) :
    drawFrame m len d = drawFrame m' len d := by
  have hdraw (start n d' : Nat) (hn : start + n ≤ 11 + len.toNat) :
      drawBytes m start n d' = drawBytes m' start n d' := drawBytes_congr fun k hk => h _ (by omega)
  simp only [drawFrame, hdraw 0 5 _ (by omega), hdraw 7 4 _ (by omega), hdraw 11 len.toNat _ (by omega)]

theorem fieldLen_frameRead {m : Memory} {b5 b6 : Byte} (d : Nat) (h5 : Memory.read m 5 = some b5)
    (h6 : Memory.read m 6 = some b6) : fieldLen (frameRead m d) = b5 ++ b6 := by
  rw [fieldLen_eq_append, mayReadAs_frameRead m d 5 b5 h5, mayReadAs_frameRead m d 6 b6 h6]

/-- Settles O52: each end of DECODE is reached, and made, from the bytes that its case fixes. -/
theorem decodeDependsOnTheFrameAlone : Obligations.DecodeDependsOnTheFrameAlone := by
  intro s m hb hcase
  have hb' : State.eng { s with buf := m } = .busy .decode := hb
  by_cases hrx : s.rxLen.toNat < 11
  · exact ⟨_, exec_cmdDecode_tooShort hb hrx, exec_cmdDecode_tooShort hb' hrx⟩
  · rw [Nat.not_lt] at hrx
    obtain ⟨b5, b6, h5, h5', h6, h6', hframe⟩ := hcase.resolve_left (Nat.not_lt.mpr hrx)
    have hlen := fieldLen_frameRead s.draws h5 h6
    have hlen' := fieldLen_frameRead s.draws h5' h6'
    have hdraw : drawLen m s.draws = drawLen s.buf s.draws :=
      drawLen_congr (h5'.trans h5.symm) (h6'.trans h6.symm)
    by_cases hlong : (b5 ++ b6 : Half).toNat > s.rxLen.toNat - 11
    · refine ⟨_, exec_cmdDecode_truncated hb hrx (hlen ▸ hlong), ?_⟩
      rw [exec_cmdDecode_truncated hb' hrx (hlen' ▸ hlong), hdraw]
      rfl
    · have hagree := hframe.resolve_left hlong
      rw [Nat.not_lt] at hlong
      refine ⟨_, exec_cmdDecode_committed hb hrx (hlen ▸ hlong), ?_⟩
      have hdrawn : frameDrawn m s.draws = frameDrawn s.buf s.draws := by
        rw [frameDrawn, hdraw, frameDrawn, drawFrame_congr]
        intro j hj
        rw [drawLen_eq, hlen] at hj
        exact (hagree j hj).symm
      rw [exec_cmdDecode_committed hb' hrx (hlen' ▸ hlong), hdrawn]
      rfl

/-! ## The source's decode (R2, R202) -/

/-- A datagram as bytes at indices. -/
def datagramByte (D : List Byte) (i : Nat) : Byte := D.getD i 0#8

/-- The source's decode has three outcomes. -/
theorem codecDecode_cases (D : List Byte) :
    (D.length < 11 ∧ codecDecode D = .error .tooShort) ∨
    (11 ≤ D.length ∧ (fieldLen (datagramByte D)).toNat > D.length - 11 ∧
      codecDecode D = .error .truncatedPayload) ∨
    (11 ≤ D.length ∧ (fieldLen (datagramByte D)).toNat ≤ D.length - 11 ∧
      codecDecode D = .ok (headerFields (datagramByte D),
        (D.drop 11).take (fieldLen (datagramByte D)).toNat)) := by
  by_cases hshort : D.length < 11
  · exact .inl ⟨hshort, if_pos hshort⟩
  · rw [Nat.not_lt] at hshort
    by_cases hlong : (fieldLen (datagramByte D)).toNat > D.length - 11
    · exact .inr (.inl ⟨hshort, hlong, (if_neg (Nat.not_lt.mpr hshort)).trans (if_pos hlong)⟩)
    · exact .inr (.inr ⟨hshort, Nat.not_lt.mp hlong, (if_neg (Nat.not_lt.mpr hshort)).trans (if_neg hlong)⟩)

/-- The codec's round trip (R126): what it encoded it decodes. -/
theorem codecDecode_codecEncode (type : Byte) (seq : Word) {p : List Byte} (hp : p.length < 2 ^ 16) :
    codecDecode (codecEncode type seq p) = .ok (encodeHeader type seq p, p) := by
  have hheader : headerFields (datagramByte (codecEncode type seq p)) = encodeHeader type seq p :=
    calc headerFields (datagramByte (codecEncode type seq p))
        = headerFields ((headerBytes (encodeHeader type seq p)).getD · 0#8) :=
          headerFields_congr fun _ hk => by
            rw [datagramByte, codecEncode_eq, List.getD_eq_getElem?_getD, List.getElem?_append_left hk,
              List.getD_eq_getElem?_getD]
      _ = encodeHeader type seq p := headerFields_headerBytes _
  have hlen : (fieldLen (datagramByte (codecEncode type seq p))).toNat = p.length := by
    rw [← encodeHeader_len_toNat type seq hp, ← hheader, headerFields]
  have hn : (codecEncode type seq p).length = 11 + p.length := codecEncode_length type seq p
  obtain ⟨hshort, -⟩ | ⟨-, hlong, -⟩ | ⟨-, -, hok⟩ := codecDecode_cases (codecEncode type seq p)
  · omega
  · omega
  · rw [hok, hheader, hlen, codecEncode_eq, List.drop_left' (headerBytes_length _), List.take_length]

/-! ## DECODE is the source's decode (R123, R127) -/

/-- What fits into BUF of a datagram is there, and RX_LEN is what a write of its length leaves (R127). -/
structure State.HoldsDatagram (s : State) (D : List Byte) : Prop where
  rxLen_eq : s.rxLen.toNat = min D.length 65546
  read_eq : ∀ j, j < min D.length 65546 → Memory.read s.buf j = D[j]?

theorem State.HoldsDatagram.getElem?_eq {s : State} {D : List Byte} (h : s.HoldsDatagram D) {j : Nat}
    (hj : j < min D.length 65546) : D[j]? = some (frameRead s.buf s.draws j) := by
  have hD : j < D.length := by omega
  have hread := h.read_eq j hj
  rw [List.getElem?_eq_getElem hD] at hread ⊢
  rw [mayReadAs_frameRead _ _ _ _ hread]

theorem State.HoldsDatagram.headerFields_eq {s : State} {D : List Byte} (h : s.HoldsDatagram D)
    (hD : 11 ≤ D.length) : headerFields (datagramByte D) = headerFields (frameRead s.buf s.draws) :=
  headerFields_congr fun _ hk => by
    rw [datagramByte, List.getD_eq_getElem?_getD, h.getElem?_eq (by omega), Option.getD_some]

/-- What DECODE does with a datagram in BUF, by the outcome of the source's decode. -/
inductive DecodeEffect (s : State) : Except CodecError (Header × List Byte) → State → Prop where
  | tooShort : DecodeEffect s (.error .tooShort) (finishCommand errTooShort s)
  | truncated (d : Nat) :
      DecodeEffect s (.error .truncatedPayload) (finishCommand errTruncated { s with draws := d })
  | ok (h : Header) (p : List Byte) (d : Nat) (hlen : p.length = h.len.toNat)
      (hpayload : ∀ k, k < p.length → Memory.read s.buf (11 + k) = p[k]?) :
      DecodeEffect s (.ok (h, p)) (s.decoded (h, p, d))

/-- No frame that the source accepts is longer than BUF, so DECODE does not see the cut of an oversized
datagram (R127). -/
theorem exec_cmdDecode_of_holdsDatagram {s : State} {D : List Byte} (hb : s.eng = .busy .decode)
    (h : s.HoldsDatagram D) : ∃ t, exec .cmdDecode s = .next t ∧ DecodeEffect s (codecDecode D) t := by
  have hrx := h.rxLen_eq
  have hmax := (fieldLen (datagramByte D)).isLt
  obtain ⟨hD, hc⟩ | ⟨hD, hlong, hc⟩ | ⟨hD, hlen, hc⟩ := codecDecode_cases D
  all_goals rw [hc]
  · exact ⟨_, exec_cmdDecode_tooShort hb (by omega), .tooShort⟩
  · have hfield : fieldLen (datagramByte D) = fieldLen (frameRead s.buf s.draws) :=
      congrArg Header.len (h.headerFields_eq hD)
    exact ⟨_, exec_cmdDecode_truncated hb (by omega) (by rw [← hfield]; omega), .truncated _⟩
  · have hfield : fieldLen (datagramByte D) = fieldLen (frameRead s.buf s.draws) :=
      congrArg Header.len (h.headerFields_eq hD)
    have hn : ((D.drop 11).take (fieldLen (datagramByte D)).toNat).length =
        (fieldLen (datagramByte D)).toNat := by simp [hlen]
    have hbyte {k : Nat} (hk : k < (fieldLen (datagramByte D)).toNat) :
        ((D.drop 11).take (fieldLen (datagramByte D)).toNat)[k]? = D[11 + k]? := by
      rw [List.getElem?_take_of_lt hk, List.getElem?_drop]
    have hframe : frameDrawn s.buf s.draws = (headerFields (datagramByte D),
        (D.drop 11).take (fieldLen (datagramByte D)).toNat, (frameDrawn s.buf s.draws).2.2) := by
      refine Prod.ext (by rw [frameDrawn_header, h.headerFields_eq hD]) (Prod.ext ?_ rfl)
      rw [frameDrawn_payload_eq_sequenceOf, ← hfield]
      exact sequenceOf_eq hn fun k hk => by rw [hbyte hk, h.getElem?_eq (by omega)]
    refine ⟨_, exec_cmdDecode_committed hb (by omega) (by rw [← hfield]; omega), ?_⟩
    rw [hframe]
    exact .ok _ _ _ hn fun k hk => by rw [h.read_eq _ (by omega), hbyte (by omega)]

/-- Settles O56: DECODE has the effect that goes with the outcome of the source's decode, whichever that is. -/
theorem decodeRefinesTheCodec : Obligations.DecodeRefinesTheCodec := by
  intro s D hb hrx hD
  obtain ⟨t, hexec, heff⟩ := exec_cmdDecode_of_holdsDatagram hb ⟨hrx, hD⟩
  generalize codecDecode D = outcome at heff ⊢
  cases heff with
  | tooShort => exact ⟨_, hexec, rfl, rfl, rfl, rfl, rfl, rfl, rfl, rfl, rfl, rfl⟩
  | truncated => exact ⟨_, hexec, rfl, rfl, rfl, rfl, rfl, rfl, rfl, rfl, rfl, rfl⟩
  | ok h p d hlen hpayload =>
    exact ⟨_, hexec, rfl, rfl, rfl, rfl, rfl, rfl, rfl, rfl, hlen,
      by rw [State.decoded_frmLen_toNat, hlen], hpayload⟩

/-! ## A frame on its way through the framer (R126) -/

/-- The argument registers and the payload area are those of an ENCODE of this frame. -/
def State.OffersFrame (s : State) (type : Byte) (seq : Word) (p : List Byte) : Prop :=
  s.txType = type ∧ s.txSeq = seq ∧ p.length = s.txLen.toNat ∧
    ∀ k, k < p.length → Memory.read s.buf (11 + k) = p[k]?

/-- BUF holds this frame as the source encodes it. -/
def State.HoldsFrame (s : State) (type : Byte) (seq : Word) (p : List Byte) : Prop :=
  ∀ j, j < 11 + p.length → Memory.read s.buf j = (codecEncode type seq p)[j]?

/-- The result registers, the flags and the payload area are those of this frame, decoded without an error. -/
def State.ShowsFrame (s : State) (type : Byte) (seq : Word) (p : List Byte) : Prop :=
  s.err = 0#4 ∧ s.resType = type ∧ s.resSeq = seq ∧ s.resLen.toNat = p.length ∧
    s.resHcsum = crc32 p ∧ s.resCcsum = crc32 p ∧ s.crcOk = true ∧
    s.typeKnown = decide (0x01 ≤ type.toNat ∧ type.toNat ≤ 0x06) ∧
    s.frmLen.toNat = 11 + p.length ∧ ∀ k, k < p.length → Memory.read s.buf (11 + k) = p[k]?

section
variable {s : State} {type : Byte} {seq : Word} {p : List Byte}

theorem exec_cmdEncode_holdsFrame (hb : s.eng = .busy .encode) (h : s.OffersFrame type seq p) :
    ∃ t, exec .cmdEncode s = .next t ∧ t.eng = .idle ∧ t.HoldsFrame type seq p := by
  obtain ⟨rfl, rfl, hn, hp⟩ := h
  obtain ⟨t, hexec, -, hfrm, hread⟩ := encodeRefinesTheCodec s p hb hn hp
  obtain ⟨t', hexec', hidle, -⟩ := exec_completionOf_busy hb
  cases hexec'.symm.trans hexec
  rw [hfrm, codecEncode_length] at hread
  exact ⟨_, hexec, hidle, hread⟩

theorem exec_cmdDecode_showsFrame (hb : s.eng = .busy .decode) (hp : p.length < 2 ^ 16)
    (hrx : s.rxLen.toNat = 11 + p.length) (h : s.HoldsFrame type seq p) :
    ∃ t, exec .cmdDecode s = .next t ∧ t.eng = .idle ∧ t.ShowsFrame type seq p := by
  have hn : (codecEncode type seq p).length = 11 + p.length := codecEncode_length type seq p
  obtain ⟨t, hexec, heff⟩ := exec_cmdDecode_of_holdsDatagram (D := codecEncode type seq p) hb
    ⟨by omega, fun j hj => h j (by omega)⟩
  rw [codecDecode_codecEncode type seq hp] at heff
  have hlen := encodeHeader_len_toNat type seq hp
  cases heff with
  | ok _ _ d _ hpayload =>
    exact ⟨_, hexec, rfl, rfl, rfl, rfl, hlen, rfl, rfl, beq_self_eq_true _, typeIsKnown_eq _,
      by rw [State.decoded_frmLen_toNat, hlen], hpayload⟩

end

theorem exec_wrRxLen_idle (w : Word) {s : State} (hidle : s.eng = .idle) :
    exec (.wrRxLen w) s = .next (answerWrite { s with rxLen := clampedCount w }) :=
  congrArg Host.Outcome.next (writeArgument_idle hidle)

/-- The length of a frame is below the clamp of RX_LEN (R161). -/
theorem clampedCount_frame_toNat {n : Nat} (hn : n < 2 ^ 16) :
    (clampedCount (BitVec.ofNat 32 (11 + n))).toNat = 11 + n := by
  simp only [clampedCount, BitVec.toNat_ofNat, Config.frameCap]
  omega

/-- Settles O57: ENCODE leaves the encoded frame in BUF, and DECODE of that shows the frame. -/
theorem decodeAfterEncodeReturnsTheFrame : Obligations.DecodeAfterEncodeReturnsTheFrame := by
  intro s p hidle hn hp
  have hmax : p.length < 2 ^ 16 := hn ▸ s.txLen.isLt
  obtain ⟨b, hencode, hidle', hframe⟩ := exec_cmdEncode_holdsFrame
    (s := answerWrite (acceptCommand .encode s)) rfl ⟨rfl, rfl, hn, hp⟩
  obtain ⟨t, hdecode, -, hshows⟩ := exec_cmdDecode_showsFrame
    (s := answerWrite (acceptCommand .decode (answerWrite { b with rxLen := clampedCount _ }))) rfl hmax
    (clampedCount_frame_toNat hmax) hframe
  exact ⟨_, b, _, _, t, exec_wrCmd_accepted .encode hidle, hencode, exec_wrRxLen_idle _ hidle',
    exec_wrCmd_accepted .decode hidle', hdecode, hshows⟩

/-! ## Turns that write no argument state -/

/-- A state with everything blanked but what the framer's commands read and write: the argument registers, BUF,
ENG, ERR, the results. -/
def State.framer (s : State) : State :=
  { s with ie := false, done := false, ovr := false, crcAcc := 0#32, resp := none, draws := 0, events := [] }

section
variable {s t : State} {type : Byte} {seq : Word} {p : List Byte}

theorem eng_eq_of_framer_eq (h : t.framer = s.framer) : t.eng = s.eng :=
  show t.framer.eng = s.framer.eng from congrArg State.eng h

theorem rxLen_eq_of_framer_eq (h : t.framer = s.framer) : t.rxLen = s.rxLen :=
  show t.framer.rxLen = s.framer.rxLen from congrArg State.rxLen h

theorem State.OffersFrame.of_framer_eq (hs : s.OffersFrame type seq p) (h : t.framer = s.framer) :
    t.OffersFrame type seq p :=
  show t.framer.OffersFrame type seq p from h ▸ hs

theorem State.HoldsFrame.of_framer_eq (hs : s.HoldsFrame type seq p) (h : t.framer = s.framer) :
    t.HoldsFrame type seq p :=
  show t.framer.HoldsFrame type seq p from h ▸ hs

theorem State.ShowsFrame.of_framer_eq (hs : s.ShowsFrame type seq p) (h : t.framer = s.framer) :
    t.ShowsFrame type seq p :=
  show t.framer.ShowsFrame type seq p from h ▸ hs

end

theorem HostEffect.framer_eq {s t : State} {i : Instr} (h : HostEffect s i t)
    (hquiet : writesArgument i = false) : t.framer = s.framer := by
  cases h with
  | elsewhere | status => rfl
  | dropped _ harg | argument _ _ _ _ _ harg => cases hquiet.symm.trans harg
  | accepted | badCmd | buffer => cases hquiet

theorem HostEffect.events_eq {s t : State} {i : Instr} (h : HostEffect s i t) : t.events = s.events := by
  cases h <;> rfl

theorem step_host_quiet {s : State} {req : Request} {rest : List Event} (hev : s.events = .host req :: rest)
    (hquiet : writesArgument (decodeRequest req) = false) :
    ∃ t, step s = .next t ∧ t.events = rest ∧ t.framer = s.framer := by
  obtain ⟨t, r, d, heff, hexec⟩ := exec_decodeRequest_effect req (takeTurn s)
  exact ⟨_, (step_hostTurn ⟨rest, hev⟩).trans hexec, by simp [heff.events_eq, hev], heff.framer_eq hquiet⟩

theorem step_engine_idle {s : State} {rest : List Event} (hidle : s.eng = .idle)
    (hev : s.events = .engine :: rest) : step s = .next (takeTurn s) := by
  simp [step, nextInstr, engineInstr, turnWithoutInstr, hev, hidle]

theorem step_quiet_idle {s : State} {e : Event} {rest : List Event} (hidle : s.eng = .idle)
    (hev : s.events = e :: rest) (hquiet : e.quiet) :
    ∃ t, step s = .next t ∧ t.events = rest ∧ t.framer = s.framer := by
  obtain rfl | ⟨req, rfl, harg⟩ := hquiet
  · exact ⟨_, step_engine_idle hidle hev, by simp [hev], rfl⟩
  · exact step_host_quiet hev harg

/-- While idle, quiet turns leave the framer as it is. -/
theorem runs_quiet_idle {s : State} {es rest : List Event} (hidle : s.eng = .idle)
    (hev : s.events = es ++ rest) (hquiet : ∀ e, e ∈ es → e.quiet) :
    ∃ t, s.runs es.length t ∧ t.events = rest ∧ t.framer = s.framer := by
  induction es generalizing s with
  | nil => exact ⟨s, rfl, hev, rfl⟩
  | cons e es ih =>
    rw [List.forall_mem_cons] at hquiet
    obtain ⟨u, hstep, hevu, hu⟩ := step_quiet_idle hidle hev hquiet.1
    obtain ⟨t, hrun, hevt, ht⟩ := ih ((eng_eq_of_framer_eq hu).trans hidle) hevu hquiet.2
    exact ⟨t, State.runs_succ hstep hrun, hevt, ht.trans hu⟩

theorem exec_completionOf_events {s t : State} {c : Command} (hb : s.eng = .busy c)
    (h : exec (completionOf c) s = .next t) : t.events = s.events := by
  obtain ⟨u, d, heff, rfl⟩ := exec_completionOf_effect hb h
  obtain ⟨-, -, -, -, -, -, -, hev⟩ := heff.frame
  exact hev

/-- While a command is pending, quiet turns with one of the engine's among them leave the framer to the
completion step, and leave it as that does. -/
theorem runs_quiet_busy {s : State} {c : Command} {es rest : List Event} (hb : s.eng = .busy c)
    (hev : s.events = es ++ rest) (hquiet : ∀ e, e ∈ es → e.quiet) (hengine : .engine ∈ es) :
    ∃ u v t, u.framer = s.framer ∧ exec (completionOf c) u = .next v ∧
      s.runs es.length t ∧ t.events = rest ∧ t.framer = v.framer := by
  induction es generalizing s with
  | nil => cases hengine
  | cons e es ih =>
    rw [List.forall_mem_cons] at hquiet
    obtain ⟨hhead, hquiet⟩ := hquiet
    obtain rfl | ⟨req, rfl, harg⟩ := hhead
    · obtain ⟨v, hexec, hidle, -⟩ := exec_completionOf_busy (s := takeTurn s) hb
      have hevv : v.events = es ++ rest := by
        rw [exec_completionOf_events (s := takeTurn s) hb hexec, takeTurn_events, hev, List.cons_append,
          List.tail_cons]
      obtain ⟨t, hrun, hevt, ht⟩ := runs_quiet_idle hidle hevv hquiet
      exact ⟨takeTurn s, v, t, rfl, hexec,
        State.runs_succ ((step_engineTurn_busy hb (.inr ⟨_, hev⟩)).trans hexec) hrun, hevt, ht⟩
    · obtain ⟨w, hstep, hevw, hw⟩ := step_host_quiet hev harg
      obtain ⟨u, v, t, hu, hexec, hrun, hevt, ht⟩ :=
        ih ((eng_eq_of_framer_eq hw).trans hb) hevw hquiet (by simpa using hengine)
      exact ⟨u, v, t, hu.trans hw, hexec, State.runs_succ hstep hrun, hevt, ht⟩

/-! ## The host's three writes of the round trip, each with quiet turns after it -/

theorem step_hostWr {s : State} {r : Reg} {w : Word} {rest : List Event}
    (hev : s.events = .host (hostWr r w) :: rest) : step s = exec (writeOp r w) (takeTurn s) := by
  rw [step_hostTurn ⟨rest, hev⟩, decodeRequest_hostWr]

/-- A command accepted and completed. -/
theorem runs_command {s : State} {c : Command} {es rest : List Event} (hidle : s.eng = .idle)
    (hev : s.events = .host (hostCmd c) :: es ++ rest) (hquiet : ∀ e, e ∈ es → e.quiet)
    (hengine : .engine ∈ es) :
    ∃ u v t, u.framer = (acceptCommand c s).framer ∧ exec (completionOf c) u = .next v ∧
      s.runs (es.length + 1) t ∧ t.events = rest ∧ t.framer = v.framer := by
  obtain ⟨u, v, t, hu, hexec, hrun, hevt, ht⟩ := runs_quiet_busy
    (s := answerWrite (acceptCommand c (takeTurn s))) (rest := rest) rfl (by simp [hev]) hquiet hengine
  exact ⟨u, v, t, hu, hexec,
    State.runs_succ ((step_hostWr hev).trans (exec_wrCmd_accepted c hidle)) hrun, hevt, ht⟩

section
variable {s : State} {type : Byte} {seq : Word} {p : List Byte} {es rest : List Event}

theorem runs_encode (hidle : s.eng = .idle) (hoffers : s.OffersFrame type seq p)
    (hev : s.events = .host (hostCmd .encode) :: es ++ rest) (hquiet : ∀ e, e ∈ es → e.quiet)
    (hengine : .engine ∈ es) :
    ∃ t, s.runs (es.length + 1) t ∧ t.events = rest ∧ t.eng = .idle ∧ t.HoldsFrame type seq p := by
  obtain ⟨u, v, t, hu, hexec, hrun, hevt, ht⟩ := runs_command hidle hev hquiet hengine
  obtain ⟨v', hexec', hidle', hframe⟩ := exec_cmdEncode_holdsFrame (eng_eq_of_framer_eq hu)
    (State.OffersFrame.of_framer_eq (s := acceptCommand .encode s) hoffers hu)
  cases hexec'.symm.trans hexec
  exact ⟨t, hrun, hevt, (eng_eq_of_framer_eq ht).trans hidle', hframe.of_framer_eq ht⟩

theorem runs_rxLen (hp : p.length < 2 ^ 16) (hidle : s.eng = .idle) (hframe : s.HoldsFrame type seq p)
    (hev : s.events = .host (hostWr .rxLen (BitVec.ofNat 32 (11 + p.length))) :: es ++ rest)
    (hquiet : ∀ e, e ∈ es → e.quiet) :
    ∃ t, s.runs (es.length + 1) t ∧ t.events = rest ∧ t.eng = .idle ∧ t.HoldsFrame type seq p ∧
      t.rxLen.toNat = 11 + p.length := by
  obtain ⟨t, hrun, hevt, ht⟩ := runs_quiet_idle (es := es) (rest := rest)
    (s := answerWrite { takeTurn s with rxLen := clampedCount (BitVec.ofNat 32 (11 + p.length)) })
    hidle (by simp [hev]) hquiet
  have hframe' := State.HoldsFrame.of_framer_eq
    (s := { s with rxLen := clampedCount (BitVec.ofNat 32 (11 + p.length)) }) hframe ht
  have hrx : t.rxLen.toNat = 11 + p.length := rxLen_eq_of_framer_eq ht ▸ clampedCount_frame_toNat hp
  exact ⟨t, State.runs_succ ((step_hostWr hev).trans (exec_wrRxLen_idle _ hidle)) hrun, hevt,
    (eng_eq_of_framer_eq ht).trans hidle, hframe', hrx⟩

theorem runs_decode (hp : p.length < 2 ^ 16) (hidle : s.eng = .idle) (hframe : s.HoldsFrame type seq p)
    (hrx : s.rxLen.toNat = 11 + p.length)
    (hev : s.events = .host (hostCmd .decode) :: es ++ rest) (hquiet : ∀ e, e ∈ es → e.quiet)
    (hengine : .engine ∈ es) :
    ∃ t, s.runs (es.length + 1) t ∧ t.eng = .idle ∧ t.ShowsFrame type seq p := by
  obtain ⟨u, v, t, hu, hexec, hrun, -, ht⟩ := runs_command hidle hev hquiet hengine
  have hrx' : u.rxLen.toNat = 11 + p.length := rxLen_eq_of_framer_eq hu ▸ hrx
  obtain ⟨v', hexec', hidle', hshows⟩ := exec_cmdDecode_showsFrame (eng_eq_of_framer_eq hu) hp hrx'
    (State.HoldsFrame.of_framer_eq (s := acceptCommand .decode s) hframe hu)
  cases hexec'.symm.trans hexec
  exact ⟨t, hrun, (eng_eq_of_framer_eq ht).trans hidle', hshows.of_framer_eq ht⟩

end

/-- Settles O58: the three writes in turn, each with its quiet turns. -/
theorem decodeAfterEncodeOnEverySchedule : Obligations.DecodeAfterEncodeOnEverySchedule := by
  intro s p first second third hidle hn hp hquiet hengine1 hengine3 hev
  have hmax : p.length < 2 ^ 16 := hn ▸ s.txLen.isLt
  simp only [List.forall_mem_append] at hquiet
  obtain ⟨⟨hquiet1, hquiet2⟩, hquiet3⟩ := hquiet
  have hlen : s.events.length = first.length + 1 + (second.length + 1 + (third.length + 1)) := by
    simp [hev]
    omega
  rw [List.append_assoc] at hev
  obtain ⟨a, hrun1, hev1, hidle1, hframe1⟩ := runs_encode hidle ⟨rfl, rfl, hn, hp⟩ hev hquiet1 hengine1
  obtain ⟨b, hrun2, hev2, hidle2, hframe2, hrx⟩ := runs_rxLen hmax hidle1 hframe1 hev1 hquiet2
  obtain ⟨t, hrun3, hidle3, hshows⟩ :=
    runs_decode (rest := []) hmax hidle2 hframe2 hrx (by simpa using hev2) hquiet3 hengine3
  exact ⟨t, hlen ▸ State.runs_add hrun1 (State.runs_add hrun2 hrun3), hidle3, hshows⟩

end Sys2Proof.Machine

/-!
PROOFS. The statements of 42_register_access.md: the reads and writes of CTRL, STATUS, the argument registers
and the result registers (R150 to R172), BUF through its window (R174, R175), and bus errors (R176).
-/
namespace Sys2Proof.Machine

/-! ## CTRL (R150, R151) -/

theorem ctrlWord_eq (s : State) : ctrlWord s = if s.ie then 1#32 else 0#32 := by
  rw [ctrlWord]
  cases s.ie <;> rfl

/-- Settles O1: the read answers CTRL's value, which has IE alone in it. -/
theorem readCtrlReturnsTheEnableBit : Obligations.ReadCtrlReturnsTheEnableBit := by
  refine ⟨readsAt_readOp .ctrl, fun s => ?_⟩
  rw [← ctrlWord_eq]
  exact exec_readOp .ctrl s

theorem exec_wrCtrl (w : Word) (s : State) :
    exec (.wrCtrl w) s = .next (answerWrite { s with ie := ieOf w }) := rfl

/-- Settles O7: the write does not look at ENG, and irq follows IE without a step between. -/
theorem writeCtrlSetsTheEnableBit : Obligations.WriteCtrlSetsTheEnableBit := by
  refine ⟨writesAt_writeOp .ctrl, fun s w => ⟨{ s with ie := ieOf w }, ?_, rfl, rfl⟩⟩
  rw [exec_wrCtrl]
  exact answersWrite_answerWrite _

/-! ## STATUS (R152, R153) -/

/-- The flags of STATUS that are one bit, and the reserved bit among them (R25 to R27, R29 to R31). -/
theorem statusWord_flags (s : State) :
    (statusWord s).getLsbD 0 = s.busy ∧ (statusWord s).getLsbD 1 = s.done ∧
      (statusWord s).getLsbD 2 = s.ovr ∧ (statusWord s).getLsbD 3 = false ∧
      (statusWord s).getLsbD 8 = s.crcOk ∧ (statusWord s).getLsbD 9 = s.typeKnown := by
  simp only [statusWord, zext32, BitVec.getLsbD_setWidth, BitVec.getLsbD_append]
  simp

/-- ERR lies above the four low bits (R28). -/
theorem statusWord_err (s : State) : (statusWord s).extractLsb' 4 4 = s.err := by
  rw [statusWord, zext32, BitVec.extractLsb'_setWidth_of_le (by decide),
    BitVec.extractLsb'_append_eq_of_le (by decide), BitVec.extractLsb'_append_eq_of_le (by decide),
    BitVec.extractLsb'_append_eq_of_le (by decide), BitVec.extractLsb'_append_eq_of_le (by decide),
    BitVec.extractLsb'_append_eq_right]

/-- Zero-extension leaves the bits above the value 0 (R6). -/
theorem zext32_extractLsb'_above {w : Nat} (v : BitVec w) (n : Nat) : (zext32 v).extractLsb' w n = 0#n := by
  refine BitVec.eq_of_getLsbD_eq fun i _ => ?_
  rw [BitVec.getLsbD_extractLsb', zext32, BitVec.getLsbD_setWidth, BitVec.getLsbD_of_ge v _ (by omega)]
  simp

theorem busy_eq (s : State) : s.busy = decide (s.eng ≠ .idle) := by
  rw [Bool.eq_iff_iff, busy_iff, decide_eq_true_iff]

/-- Settles O2: the read answers STATUS's value, flag by flag. -/
theorem readStatusPlacesEveryFlag : Obligations.ReadStatusPlacesEveryFlag := by
  refine ⟨readsAt_readOp .status, fun s => ⟨statusWord s, exec_readOp .status s, ?_⟩⟩
  obtain ⟨hbusy, hdone, hovr, hzero, hcrc, htype⟩ := statusWord_flags s
  exact ⟨hbusy.trans (busy_eq s), hdone, hovr, hzero, statusWord_err s, hcrc, htype,
    zext32_extractLsb'_above _ 22⟩

theorem exec_wrStatus (w : Word) (s : State) :
    exec (.wrStatus w) s = .next (answerWrite (clearStatus w s)) := rfl

theorem irq_of_not_done {s : State} (h : s.done = false) : s.irq = false := by
  rw [State.irq, h, Bool.false_and]

/-- Settles O8: the write's effect is `clearStatus`, whose two masks are bits 1 and 2 of the data word. -/
theorem writeStatusClearsWhereOne : Obligations.WriteStatusClearsWhereOne := by
  refine ⟨writesAt_writeOp .status, fun s w => ⟨clearStatus w s, ?_, rfl, fun hw => ?_, fun hw => ?_,
    fun hw => ?_, fun hw => ?_⟩⟩
  · rw [exec_wrStatus]
    exact answersWrite_answerWrite _
  · have hdone : (clearStatus w s).done = false := by
      rw [clearStatus_done, clearsDone, hw, Bool.not_true, Bool.and_false]
    exact ⟨hdone, irq_of_not_done hdone⟩
  · rw [clearStatus_done, clearsDone, hw, Bool.not_false, Bool.and_true]
  · rw [clearStatus_ovr, clearsOvr, hw, Bool.not_true, Bool.and_false]
  · rw [clearStatus_ovr, clearsOvr, hw, Bool.not_false, Bool.and_true]

/-! ## The argument registers and the result registers (R154 to R172) -/

theorem zext32_word (v : Word) : zext32 v = v := BitVec.setWidth_eq v

/-- Settles O3: each read answers its register's value; 32 bits hold every 17-bit count. -/
theorem readArgumentRegisters : Obligations.ReadArgumentRegisters := by
  refine ⟨readsAt_readOp .txType, readsAt_readOp .txSeq, readsAt_readOp .txLen, readsAt_readOp .rxLen,
    fun s => ⟨exec_readOp .txType s, ?_, exec_readOp .txLen s, exec_readOp .rxLen s, fun hlegal => ?_⟩⟩
  · rw [← zext32_word s.txSeq]
    exact exec_readOp .txSeq s
  · rwa [BitVec.toNat_setWidth_of_le (by decide)]

/-- Settles O4: each read answers its register's value. -/
theorem readResultRegisters : Obligations.ReadResultRegisters := by
  refine ⟨readsAt_readOp .frmLen, readsAt_readOp .resType, readsAt_readOp .resSeq, readsAt_readOp .resLen,
    readsAt_readOp .resHcsum, readsAt_readOp .resCcsum, fun s => ?_⟩
  rw [← zext32_word s.resSeq, ← zext32_word s.resHcsum, ← zext32_word s.resCcsum]
  exact ⟨exec_readOp .frmLen s, exec_readOp .resType s, exec_readOp .resSeq s, exec_readOp .resLen s,
    exec_readOp .resHcsum s, exec_readOp .resCcsum s⟩

theorem answersWrite_writeArgument_idle {s : State} (f : State → State) (hidle : s.eng = .idle) :
    answersWrite (.next (writeArgument f s)) (f s) := by
  rw [writeArgument_idle hidle]
  exact answersWrite_answerWrite _

theorem answersWrite_writeArgument_busy {s : State} (f : State → State) (hbusy : s.eng ≠ .idle) :
    answersWrite (.next (writeArgument f s)) { s with ovr := true } := by
  rw [writeArgument_busy hbusy]
  exact answersWrite_answerWrite _

theorem clampedCount_toNat (w : Word) : (clampedCount w).toNat = min w.toNat 65546 := by
  simp only [clampedCount, BitVec.toNat_ofNat, Config.frameCap]
  omega

/-- Settles O9: the four writes go to argument state, so the engine's state picks between the register's
update and a dropped write. -/
theorem writeArgumentRegisters : Obligations.WriteArgumentRegisters := by
  refine ⟨writesAt_writeOp .txType, writesAt_writeOp .txSeq, writesAt_writeOp .txLen,
    writesAt_writeOp .rxLen, fun s w => ⟨fun hidle => ?_, fun hbusy => ?_⟩⟩
  · exact ⟨answersWrite_writeArgument_idle _ hidle, answersWrite_writeArgument_idle _ hidle,
      answersWrite_writeArgument_idle _ hidle, clampedCount w, clampedCount_toNat w,
      answersWrite_writeArgument_idle _ hidle⟩
  · exact ⟨answersWrite_writeArgument_busy _ hbusy, answersWrite_writeArgument_busy _ hbusy,
      answersWrite_writeArgument_busy _ hbusy, answersWrite_writeArgument_busy _ hbusy⟩

/-! ## BUF through its window (R174, R175) -/

/-- A descriptor as a number: the fields of R70 lie side by side. -/
theorem descriptor_toNat (b : BitVec 1) (c : BitVec 2) (a : BusAddr) :
    (b ++ c ++ a : Descriptor).toNat = b.toNat * 2 ^ 20 + c.toNat * 2 ^ 18 + a.toNat := by
  rw [BitVec.toNat_append, BitVec.toNat_append, ← Nat.shiftLeft_add_eq_or_of_lt a.isLt,
    ← Nat.shiftLeft_add_eq_or_of_lt c.isLt, Nat.shiftLeft_eq, Nat.shiftLeft_eq]
  omega

/-- The descriptor of a one-byte access to BUF[i] is that of BUF[0] plus i (R70, R46). -/
theorem bufDescriptor_eq (b : BitVec 1) (i : Count) :
    (b ++ 0#2 ++ bufAddr i : Descriptor) = (b ++ 0#2 ++ 0x10000#18 : Descriptor) + i.setWidth 21 := by
  apply BitVec.eq_of_toNat_eq
  have hb := b.isLt
  have hi := i.isLt
  rw [BitVec.toNat_add, descriptor_toNat, descriptor_toNat, bufAddr_toNat,
    BitVec.toNat_setWidth_of_le (by decide), BitVec.toNat_ofNat, BitVec.toNat_ofNat]
  omega

section
variable {i : Count}

theorem readsAt_rdBuf (hi : i.toNat < Config.frameCap) :
    readsAt (0x010000#21 + i.setWidth 21) (.rdBuf i) :=
  readsAt_of_request .one (bufAddr i) (bufDescriptor_eq 0#1 i) (by simp [decodeRequest, bufIndex_bufAddr hi])

theorem writesAt_wrBuf (hi : i.toNat < Config.frameCap) :
    writesAt (0x110000#21 + i.setWidth 21) (.wrBuf i) :=
  writesAt_of_request .one (bufAddr i) (bufDescriptor_eq 1#1 i)
    (fun _ => by simp [decodeRequest, bufIndex_bufAddr hi])

end

/-- Settles O12: the byte is the one drawn, and a written byte is drawn as written without a free value. -/
theorem readBufReturnsTheByte : Obligations.ReadBufReturnsTheByte := by
  refine fun s i hi => ⟨readsAt_rdBuf hi, _, _, exec_rdBuf_inside s hi, fun c hc => ?_⟩
  rw [drawByte_of_written hc]
  exact ⟨rfl, rfl⟩

/-- Settles O13: a read after the write tells BUF[i] from the other bytes; while busy the write is dropped. -/
theorem writeBufStoresOneByte : Obligations.WriteBufStoresOneByte := by
  refine fun s i w hi => ⟨writesAt_wrBuf hi, fun hidle => ?_, fun hbusy => ?_⟩
  · refine ⟨{ s with buf := Memory.write s.buf i.toNat (lowByte w) }, ?_, Memory.read_write_same _ _ _,
      fun j hj => Memory.read_write_other _ _ hj, rfl⟩
    rw [exec_wrBuf_idle w hidle hi]
    exact answersWrite_answerWrite _
  · rw [exec_wrBuf_busy w hbusy hi]
    exact answersWrite_answerWrite _

/-! ## Bus errors (R176, R201) -/

/-- Settles O14: the bus decode sends the rest of R52's cases here, and the answer never depends on ENG. -/
theorem busErrorChangesNothing : Obligations.BusErrorChangesNothing :=
  ⟨fun _ => decodeRequest_of_not_admitted, fun s req => exec_busErr req s⟩

end Sys2Proof.Machine

/-!
PROOFS. The statements of 60_exceptions.md: a bus error comes before the busy check (R207), a reserved command
word is BAD_CMD (R205), and what raises irq (R208).
-/
namespace Sys2Proof.Machine

/-! ## Bus errors first (R207) -/

theorem takeTurn_of_events {s : State} {e : Event} {rest : List Event} (h : s.events = e :: rest) :
    takeTurn s = { s with events := rest } := by
  rw [takeTurn, h, List.tail_cons]

/-- Settles O15: the bus decode makes the transaction BUS_ERR, whose answer never looks at ENG. -/
theorem busErrorComesBeforeTheBusyCheck : Obligations.BusErrorComesBeforeTheBusyCheck := by
  intro s req rest hev hreq
  rw [step_hostTurn ⟨rest, hev⟩, decodeRequest_of_not_admitted hreq, exec_busErr, takeTurn_of_events hev,
    raiseBusError]

/-! ## Reserved command words (R72, R205) -/

theorem decodeCommand_reserved {w : Word} (hencode : w ≠ 1#32) (hdecode : w ≠ 2#32) :
    decodeCommand w = .cmdReserved w := by
  obtain ⟨hw, -⟩ | ⟨hw, -⟩ | ⟨-, hd⟩ := decodeCommand_cases w
  · exact absurd hw hencode
  · exact absurd hw hdecode
  · exact hd

theorem exec_cmdReserved (w : Word) (s : State) :
    exec (.cmdReserved w) s = .next (writeArgument (endCommand errBadCmd) s) := rfl

theorem exec_wrCmd (w : Word) (s : State) :
    exec (.wrCmd w) s = .next (writeArgument (issueCommand w) s) := rfl

/-- Settles O17: with a reserved word both operations write argument state with the same update, BAD_CMD. -/
theorem reservedCommandIsBadCmd : Obligations.ReservedCommandIsBadCmd := by
  intro s w hencode hdecode
  have hissue : issueCommand w = endCommand errBadCmd := funext (issueCommand_reserved hencode hdecode)
  refine ⟨?_, ?_, fun hidle => ?_, fun hbusy => ?_⟩
  · rw [← decodeCommand_reserved hencode hdecode]
    exact decode_presentedBytes (.inr w)
  · rw [exec_cmdReserved, exec_wrCmd, hissue]
  · rw [exec_cmdReserved]
    exact answersWrite_writeArgument_idle _ hidle
  · rw [exec_cmdReserved]
    exact answersWrite_writeArgument_busy _ hbusy

/-! ## CTRL.IE is written by WR_CTRL alone (R24, R151) -/

@[simp] theorem issueCommand_ie (w : Word) (s : State) : (issueCommand w s).ie = s.ie := by
  obtain ⟨-, c, h⟩ | ⟨-, -, h⟩ := issueCommand_cases w s <;> simp [h]

theorem WriteEffect.ie_eq_or_wrCtrl {s t : State} {i : Instr} (h : WriteEffect s i t) :
    t.ie = s.ie ∨ ∃ w, i = .wrCtrl w ∧ t.ie = w.getLsbD 0 := by
  cases h with
  | ctrl w => exact .inr ⟨w, rfl, rfl⟩
  | cmd w => exact .inl (issueCommand_ie w s)
  | _ => exact .inl rfl

theorem exec_decodeRequest_ie {req : Request} {s t : State} (h : exec (decodeRequest req) s = .next t) :
    t.ie = s.ie ∨ ∃ w, decodeRequest req = .wrCtrl w ∧ t.ie = w.getLsbD 0 := by
  obtain ⟨r, -, -, -, hd⟩ | ⟨r, -, w, -, -, hd⟩ | ⟨i, a, -, hi, hd⟩ | ⟨i, a, w, -, hi, hd⟩ | hd :=
    decodeRequest_cases req
  all_goals rw [hd] at h ⊢
  · cases (exec_readOp r s).symm.trans h
    exact .inl rfl
  · obtain ⟨u, heff, hexec⟩ := exec_writeOp r w s
    cases hexec.symm.trans h
    exact heff.ie_eq_or_wrCtrl
  · cases (exec_rdBuf_inside s (bufIndex_below hi).2).symm.trans h
    exact .inl rfl
  · by_cases hidle : s.eng = .idle
    · cases (exec_wrBuf_idle w hidle (bufIndex_below hi).2).symm.trans h
      exact .inl rfl
    · cases (exec_wrBuf_busy w hidle (bufIndex_below hi).2).symm.trans h
      exact .inl rfl
  · cases (exec_busErr req s).symm.trans h
    exact .inl rfl

/-- After a step IE is 1 only where it was 1 before, or where the host wrote it. -/
theorem ie_of_step {s t : State} (hstep : step s = .next t) (hie : t.ie = true) :
    s.ie = true ∨ ∃ req w, s.hostTurn req ∧ decodeRequest req = .wrCtrl w ∧ w.getLsbD 0 = true := by
  cases stepEffect_of_step hstep with
  | @host req _ _ _ hturn _ =>
    obtain hkept | ⟨w, hd, hw⟩ := exec_decodeRequest_ie ((step_hostTurn hturn).symm.trans hstep)
    · exact .inl (hkept.symm.trans hie)
    · exact .inr ⟨req, w, hturn, hd, hw.symm.trans hie⟩
  | engine _ _ heff =>
    obtain ⟨-, hkept, -⟩ := heff.frame
    exact .inl (hkept.symm.trans hie)
  | reset => cases hie

/-! ## The interrupt output (R48, R208) -/

theorem irq_iff (s : State) : s.irq = true ↔ s.done = true ∧ s.ie = true := Bool.and_eq_true_iff

/-- A write of CTRL is no completion and no command, so it does not set DONE. -/
theorem done_of_wrCtrl_step {s t : State} {req : Request} {w : Word} (hstep : step s = .next t)
    (hturn : s.hostTurn req) (hd : decodeRequest req = .wrCtrl w) (hdone : t.done = true) :
    s.done = true := by
  cases hs : s.done with
  | true => rfl
  | false =>
    obtain ⟨-, -, hengine⟩ | ⟨-, req', w', hturn', hd', -⟩ :=
      (doneIsSetByCompletionOrBadCmd s t hstep hs).mp hdone
    · exact absurd hengine hturn.not_engineTurn
    · rw [hturn.iff_eq.mp hturn', hd] at hd'
      cases hd'

/-- Settles O47: irq rises with IE, which the host writes while DONE is 1, or under IE with DONE, which a
completion or a reserved word sets. -/
theorem irqRisesOnCompletionBadCmdOrEnable : Obligations.IrqRisesOnCompletionBadCmdOrEnable := by
  intro s t hstep hlow hhigh
  obtain ⟨hdone, hie⟩ := (irq_iff t).mp hhigh
  obtain hkept | ⟨req, w, hturn, hd, hw⟩ := ie_of_step hstep hie
  · have hclear : s.done = false := by simpa [State.irq, hkept] using hlow
    obtain hcompletion | ⟨hidle, hbadCmd⟩ := (doneIsSetByCompletionOrBadCmd s t hstep hclear).mp hdone
    · exact .inl ⟨hkept, hcompletion⟩
    · exact .inr (.inl ⟨hkept, hidle, hbadCmd⟩)
  · exact .inr (.inr ⟨done_of_wrCtrl_step hstep hturn hd hdone, req, w, hturn, hd, hw⟩)

end Sys2Proof.Machine

/-!
PROOFS. The statements of 70_reset_and_hazards.md: what reset restores (R230, R232), and the invariant right
after it.
-/
namespace Sys2Proof.Machine

/-- No register shows a byte of BUF or a field of the model's own, so after reset each reads as it does in the
reset state. -/
@[simp] theorem readValue_resetBlock (r : Reg) (s : State) :
    readValue r (resetBlock s) = readValue r State.reset := by
  cases r <;> rfl

/-- Settles O22: a reset turn runs the reset transition alone, after which the registers read the reset column
of R23. -/
theorem resetRestoresEveryRegisterButBuf : Obligations.ResetRestoresEveryRegisterButBuf := by
  intro s rest hev
  obtain ⟨hzero, -⟩ := resetStateReadsTheResetColumn
  refine ⟨resetBlock (takeTurn s), step_resetTurn ⟨rest, hev⟩, rfl, ?status, ?crcOut, rfl⟩
  case status => simpa using hzero .status (by decide)
  case crcOut => simpa using hzero .crcOut (by decide)

/-- Settles O39: the reset state is its own reset, and its BUF, with no byte listed, is in canonical form. -/
theorem invariantHoldsAtReset : Obligations.InvariantHoldsAtReset := by
  have hself : resetBlock State.reset = State.reset := rfl
  have hbuf : State.reset.bufOk := rfl
  unfold Obligations.InvariantHoldsAtReset
  rw [← hself]
  exact resetBlock_inv hbuf

end Sys2Proof.Machine

/-!
PROOFS. The statements that are the model's own choice: a completion step that ENG does not enable (log entry 7),
and where a table row's word is placed (log entry 9).
-/
namespace Sys2Proof.Machine

/-! ## A completion step that ENG does not enable (R121) -/

theorem exec_cmdEncode_notEnabled {s : State} (h : s.eng ≠ .busy .encode) : exec .cmdEncode s = .next s := by
  rw [exec, execCmdEncode]
  split
  case h_1 hb => exact absurd hb h
  all_goals rfl

theorem exec_cmdDecode_notEnabled {s : State} (h : s.eng ≠ .busy .decode) : exec .cmdDecode s = .next s := by
  rw [exec, execCmdDecode]
  split
  case h_1 hb => exact absurd hb h
  all_goals rfl

/-- Settles O20: in every branch but the one ENG enables, the state is the answer. -/
theorem completionNotEnabledChangesNothing : Obligations.CompletionNotEnabledChangesNothing :=
  fun _ => ⟨exec_cmdEncode_notEnabled, exec_cmdDecode_notEnabled⟩

/-! ## Completion steps among the operations (R52, R72) -/

theorem operationOf_completionOf (c : Command) : operationOf (completionOf c) = .inr (commandWord c) := by
  cases c <;> rfl

theorem decodeCommand_commandWord (c : Command) : decodeCommand (commandWord c) = completionOf c := by
  cases c <;> rfl

/-- A transaction is no command word, so the port never presents a completion step. -/
theorem decodeRequest_ne_completionOf (req : Request) (c : Command) : decodeRequest req ≠ completionOf c := by
  intro h
  have hop := congrArg operationOf h
  rw [operationOf_decodeRequest, operationOf_completionOf] at hop
  cases hop

theorem eq_commandWord_of_decodeCommand {v : Word} {c : Command} (h : decodeCommand v = completionOf c) :
    v = commandWord c := by
  have hop := congrArg operationOf h
  rw [operationOf_decodeCommand, operationOf_completionOf] at hop
  exact Sum.inr.inj hop

theorem ne_commandWord_of_decodeCommand {v : Word} (h : ∀ c, decodeCommand v ≠ completionOf c) (c : Command) :
    v ≠ commandWord c := by
  rintro rfl
  exact h c (decodeCommand_commandWord c)

/-! ## What is presented runs in the next step (log entry 9) -/

theorem step_presentRequest (req : Request) (s : State) :
    step (presentRequest req s) = exec (decodeRequest req) s :=
  step_hostTurn ⟨s.events, rfl⟩

theorem presentCommand_commandWord (c : Command) (s : State) :
    presentCommand (commandWord c) s = { s with eng := .busy c, events := .engine :: s.events } := by
  cases c <;> rfl

theorem step_presentCommand_commandWord (c : Command) (s : State) :
    step (presentCommand (commandWord c) s) = exec (completionOf c) { s with eng := .busy c } := by
  rw [presentCommand_commandWord]
  exact step_engineTurn_busy rfl (.inr ⟨s.events, rfl⟩)

theorem presentCommand_reserved {v : Word} (hencode : v ≠ 1#32) (hdecode : v ≠ 2#32) (s : State) :
    presentCommand v s = presentRequest (hostWr .cmd v) s := by
  have hnone : commandOf v = none := by rw [commandOf, if_neg hencode, if_neg hdecode]
  rw [presentCommand, hnone, hostWr]

/-- A reserved word is written to CMD, which is what its operation does (R205). -/
theorem step_presentCommand_reserved {v : Word} (hencode : v ≠ 1#32) (hdecode : v ≠ 2#32) (s : State) :
    step (presentCommand v s) = exec (decodeCommand v) s := by
  obtain ⟨-, hsame, -⟩ := reservedCommandIsBadCmd s v hencode hdecode
  rw [presentCommand_reserved hencode hdecode, step_presentRequest, decodeRequest_hostWr,
    decodeCommand_reserved hencode hdecode, hsame, writeOp]

/-- A table row's word that decodes is placed as a transaction or as a command word, from every state. -/
theorem withFetchWord_cases {nbits w : Nat} {i : Instr} (h : decodeTableWord nbits w = some i) :
    (∃ req, i = decodeRequest req ∧ ∀ s : State, s.withFetchWord nbits w = presentRequest req s) ∨
      (∃ v, i = decodeCommand v ∧ ∀ s : State, s.withFetchWord nbits w = presentCommand v s) := by
  cases hb : tableBytes nbits w with
  | none => simp [decodeTableWord, hb] at h
  | some bytes =>
    cases hp : presented bytes with
    | error e => simp [decodeTableWord, hb, decode, hp, Except.map, Except.toOption] at h
    | ok x =>
      have hi : decodePresented x = i := by
        simpa [decodeTableWord, hb, decode, hp, Except.map, Except.toOption] using h
      cases x with
      | inl req => exact .inl ⟨req, hi.symm, fun s => by simp [State.withFetchWord, presentTableWord, hb, hp]⟩
      | inr v => exact .inr ⟨v, hi.symm, fun s => by simp [State.withFetchWord, presentTableWord, hb, hp]⟩

/-- Settles O26: a transaction runs on the host's turn and is no completion step; a command's word runs on the
engine's turn, the engine holding it; a reserved word runs as the write of CMD. -/
theorem placedTableWordRunsNext : Obligations.PlacedTableWordRunsNext := by
  intro s nbits w i hi
  obtain ⟨req, rfl, hplaced⟩ | ⟨v, rfl, hplaced⟩ := withFetchWord_cases hi
  all_goals rw [hplaced]
  · exact ⟨fun c hc => absurd hc (decodeRequest_ne_completionOf req c), fun _ => step_presentRequest req s⟩
  · refine ⟨fun c hc => ?_, fun hother => ?_⟩
    · rw [hc, eq_commandWord_of_decodeCommand hc]
      exact step_presentCommand_commandWord c s
    · exact step_presentCommand_reserved (ne_commandWord_of_decodeCommand hother .encode)
        (ne_commandWord_of_decodeCommand hother .decode) s

end Sys2Proof.Machine
